-- ==== Sys2Proof/Word.lean ====
section
/-! DEFINITION. The byte and the 32-byte value of the PVE (spec/00_scope.md R9, R13). -/

namespace Sys2Proof

/-- A byte: an 8-bit unsigned value, bit 0 its least significant bit (R13). -/
abbrev Byte := BitVec 8

/-- `Bytes32`: a sequence of exactly 32 bytes, byte 0 first (R9 `BLK`, R13). -/
abbrev Bytes32 := Vector Byte 32

/-- `zero32`: 32 bytes of 0x00 (R13). -/
def zero32 : Bytes32 := Vector.replicate 32 0

/-- A command frame: the byte sequence `F` of one host command transaction, `F[0]` first (R100). -/
abbrev Frame := List Byte

end Sys2Proof
end

