-- ==== Sys2Proof/Syntax.lean ====
section
/-! DEFINITION. The two commands of the PVE and their operand fields (spec/30_encoding.md R100, R101, R112). -/

namespace Sys2Proof

/-- A command of a known opcode, with its frame cut into the fields of R101. A frame of a known opcode that is not
valid (R104) is a command too: it completes with PARAM_ERROR, so its fields are kept as they came (DEDUCED, safe,
notes/assumptions/18.md).

* `plen` is `F[1]`; `none` for the one-byte frame that has no `F[1]`.
* `pin` is `F[2 .. 1+PLEN]`, fewer bytes if the frame ends before.
* `sec` (SETUP) and `excess` (VERIFY) are all the bytes after the PIN: the master secret when there are exactly 32 of
  them (SETUP), and bytes that make the frame invalid when there are any (VERIFY). -/
inductive Instr where
  /-- SETUP, format CMD-S, `OPC` 0x01 (R140) -/
  | setup (plen : Option Byte) (pin sec : List Byte)
  /-- VERIFY, format CMD-V, `OPC` 0x02 (R180) -/
  | verify (plen : Option Byte) (pin excess : List Byte)
  deriving DecidableEq, Repr

end Sys2Proof
end

