-- ==== Sys2Proof/WellFormed.lean ====
section
/-! DEFINITION. Which values of `Instr` are the fields of some frame: the cut of R101. A well-formed command need not be
a valid one (R104); validity is tested by the machine (Machine/Flags.lean). -/

namespace Sys2Proof

/-- The fields `plen`, `pin` and `tail` are those of one frame: without `F[1]` there is nothing after it; the PIN field
has at most `PLEN` bytes; and only a full PIN field is followed by further bytes (R101). -/
abbrev FieldsFit (plen : Option Byte) (pin tail : List Byte) : Prop :=
  match plen with
  | none => pin = [] ∧ tail = []
  | some n => pin.length ≤ n.toNat ∧ (tail = [] ∨ pin.length = n.toNat)

/-- A command whose fields are the cut of a frame (R101). -/
abbrev Instr.WellFormed (i : Instr) : Prop :=
  match i with
  | .setup plen pin sec => FieldsFit plen pin sec
  | .verify plen pin excess => FieldsFit plen pin excess

end Sys2Proof
end

