-- ==== Sys2Proof/Decode.lean ====
section
/-! DEFINITION. Decoding a command frame and encoding a command (spec/30_encoding.md R101 to R106, R109). -/

namespace Sys2Proof

/-- Why a frame spells no command (R105). -/
inductive DecodeError where
  /-- the frame has `L` = 0 -/
  | emptyFrame
  /-- `OPC` is neither 0x01 nor 0x02 -/
  | reservedOpcode (opc : Byte)
  deriving DecidableEq, Repr

/-- `OPC` of SETUP (R102). -/
def opcSetup : Byte := 0x01
/-- `OPC` of VERIFY (R102). -/
def opcVerify : Byte := 0x02

/-- Cut the bytes after `OPC` into `PLEN`, the PIN field and what follows it, and give them to a constructor (R101). -/
def cutFields (mk : Option Byte → List Byte → List Byte → Instr) : List Byte → Instr
  | [] => mk none [] []
  | n :: body => mk (some n) (body.take n.toNat) (body.drop n.toNat)

/-- Decode a frame. All eight bits of `OPC` take part in the match (R102); every other frame is reserved (R105). -/
def decode : Frame → Except DecodeError Instr
  | [] => .error .emptyFrame
  | opc :: rest =>
    if opc = opcSetup then .ok (cutFields .setup rest)
    else if opc = opcVerify then .ok (cutFields .verify rest)
    else .error (.reservedOpcode opc)

/-- The frame of a command: `OPC`, `PLEN`, the PIN bytes and what follows them, in that order (R101). -/
def encode : Instr → Frame
  | .setup plen pin sec => opcSetup :: (plen.toList ++ pin ++ sec)
  | .verify plen pin excess => opcVerify :: (plen.toList ++ pin ++ excess)

/-- The length of the frame at the head of a byte sequence, from `F[0]` and `F[1]` (R109): 34 + `F[1]` for SETUP and
2 + `F[1]` for VERIFY; `none` where these two bytes give no length. -/
def frameLength : List Byte → Option Nat
  | opc :: n :: _ =>
    if opc = opcSetup then some (34 + n.toNat)
    else if opc = opcVerify then some (2 + n.toNat)
    else none
  | _ => none

/-- The longest valid frame: SETUP with an 8-byte PIN (R101). -/
def maxFrame : Nat := 42

/-- The `k` bytes of the number `w`, the least significant one first. -/
def bytesOf : Nat → Nat → List Byte
  | 0, _ => []
  | k + 1, w => BitVec.ofNat 8 w :: bytesOf k (w / 256)

/-- The frame whose bits are `w`, numbered as spec/opcode_table.json numbers them (byte 0 lowest), every bit above
`nbits` zero. Its end is where R109 puts it; where R109 gives no length it is the bytes of `nbits` alone (DESIGN CHOICE,
safe, notes/assumptions/19.md). -/
def tableFrame (nbits w : Nat) : Frame :=
  let k := (nbits + 7) / 8
  let bytes := bytesOf k (w % 2 ^ nbits) ++ List.replicate (maxFrame - k) 0
  bytes.take ((frameLength bytes).getD k)

/-- The command the decoder reads from a frame given as a number; `none` where it refuses. -/
def decodeTableWord (nbits w : Nat) : Option Instr :=
  (decode (tableFrame nbits w)).toOption

end Sys2Proof
end

