-- ==== Sys2Proof/Config.lean ====
section
/-! DEFINITION. What an implementation fixes: the constants of R7 to R10, the configuration CFG of R31, and the
open function parameters `MAC` and `SlotOut` of R12, which have no body. -/

namespace Sys2Proof

/-- `PIN_MIN` (R7). -/
def pinMin : Nat := 4
/-- `PIN_MAX` (R7). -/
def pinMax : Nat := 8
/-- `SECRET_LEN` (R8). -/
def secretLen : Nat := 32
/-- `LABEL_TAG`, the one byte 0x00 (R10). -/
def labelTag : List Byte := [0x00]
/-- `LABEL_REKEY`, the one byte 0x01 (R10). -/
def labelRekey : List Byte := [0x01]
/-- `LABEL_FINAL`, the one byte 0x32 (R10, D9, C5). UNVERIFIED, unsafe: the spec takes the ASCII code from general
knowledge (G1, notes/assumptions/15.md). -/
def labelFinal : List Byte := [0x32]

/-- CFG (R31): the fields that differ between builds. They are constant for the life of a block (R30) and no step
writes them; every statement of this package holds for every value of them. -/
structure Cfg where
  /-- `ROUNDS`, the attempt budget, legal in 1..128 (R6). -/
  rounds : Nat
  /-- `RECORD_ADDR`, the store address of the record's unit (R12, R71); of any width (DESIGN CHOICE, safe,
  notes/assumptions/24.md) -/
  recordAddr : Nat
  /-- `STORE_UNIT_SIZE`, the capacity of that unit in bytes (R12). -/
  storeUnitSize : Nat
  deriving DecidableEq, Repr

/-- `RECSIZE` = 33 + 32·`ROUNDS` (R11). -/
def Cfg.recSize (c : Cfg) : Nat := 33 + 32 * c.rounds

/-- A legal configuration: 1 ≤ `ROUNDS` ≤ 128 and `RECSIZE` ≤ `STORE_UNIT_SIZE` (R31). -/
abbrev Cfg.legal (c : Cfg) : Prop :=
  1 ≤ c.rounds ∧ c.rounds ≤ 128 ∧ c.recSize ≤ c.storeUnitSize

/-- The configuration `State.reset` is built with. DESIGN CHOICE, unsafe (notes/assumptions/1.md): the spec leaves all
three fields open. No statement of this package rests on these numbers. -/
def Cfg.built : Cfg := { rounds := 5, recordAddr := 0, storeUnitSize := 4129 }

/-- `SLOT[i]`, the internal state of one destructible slot (R45). -/
inductive SlotState where
  /-- never used by a SETUP (R45) -/
  | fresh
  /-- the last successful operation on the slot had this input (R45) -/
  | keyed (x : Bytes32)
  deriving DecidableEq, Repr

/-- The two function parameters of R12. They are no state (R30). -/
structure Collaborators where
  /-- `MAC(key, msg)` (R12, R262) -/
  mac : Bytes32 → List Byte → Bytes32
  /-- `SlotOut(i, SLOT[i], x)` (R12, R265) -/
  slotOut : Byte → SlotState → Bytes32 → Bytes32

/-- `MAC`: deterministic and otherwise uninterpreted (R12, D8). No body, so that nothing can be proved of its values: a
free value of the operands, safe (notes/assumptions/7.md). -/
opaque Config.mac : Bytes32 → List Byte → Bytes32

/-- `SlotOut`: a function of the index, the slot's state and the input, and nothing more is known (R12, R265, D7). A free
value of these three; that it depends on no more of the slot's history is UNVERIFIED, unsafe (notes/assumptions/8.md). -/
opaque Config.slotOut : Byte → SlotState → Bytes32 → Bytes32

/-- The collaborators the machine's own step runs with. -/
def Config.collaborators : Collaborators := { mac := Config.mac, slotOut := Config.slotOut }

end Sys2Proof
end

