-- ==== Sys2Proof/Machine/State.lean ====
section
/-! DEFINITION. The state of a PVE system as plain data: CFG, BLOCK and ENV (spec/10_state.md R30), and beside them what
the agents outside the block will do, which the model holds as data (R313, R316). -/

namespace Sys2Proof.Machine

/-- Why a step stops. None of these is a behaviour of the PVE: each is raised only in states that no run reaches (the
rules R40 and R266 exclude them), and stopping there is safe (DEDUCED,
notes/assumptions/16.md). The PVE's own faults are next states, in phase FAULT (`FaultCode`). -/
inductive Fault where
  /-- raised by `envAnswer`: a slot request outside 0..`ROUNDS`-1, the slot address space (R70, R266); safe -/
  | noSuchSlot
  /-- raised by `setupAfterMacK` and `verifyAfterMacK`: an index outside `REC.ENC[0..ROUNDS-1]` (R36, R266); safe -/
  | noSuchBlock
  /-- raised by the `on…` operations and `resume`: a response of another port than the one `PHASE` waits on (R40); safe -/
  | responseMismatch
  deriving DecidableEq, Repr

/-- An input the model gives no meaning (R308). Such an input is no stop: `State.refusal` is marked with its name, and the
run goes on with the block and ENV as they were. -/
inductive Refusal where
  /-- raised by no arm of this model: every command of the opcode table has its meaning; safe -/
  | notModelled (mnemonic : String)
  /-- the mark `systemStep` sets when `CFG` is not legal (R31, D25); safe -/
  | illegalConfiguration
  /-- the mark `acceptNext` sets for a frame with `L` = 0 (R105, D4); safe -/
  | emptyFrame
  /-- the mark `acceptNext` sets for a frame whose `OPC` is not 0x01 or 0x02 (R105, D4); safe -/
  | reservedOpcode (opc : Byte)
  deriving DecidableEq, Repr

/-- `PHASE`: the state-machine phase, under the names of the table in R32. A phase other than `idle` and `fault` names
the one transaction the block waits on. -/
inductive Phase where
  | idle
  | sErase | sMacTag | sMacU | sMacV | sSlotA | sSlotB | sSlotC | sMacK | sWrite | sMacFinal
  | vRead | vEraseDec | vWriteDec | vMacV | vSlot | vMacK | vMacT | vMacU | vRecommit
  | vEraseRst | vWriteRst | vMacFinal
  | fault
  deriving DecidableEq, Repr

/-- `FAULT_CODE` (R38). -/
inductive FaultCode where
  | none
  | protocol
  | recordRange
  deriving DecidableEq, Repr

/-- A request the block sends to a collaborator, with the fields of R110. -/
inductive Request where
  /-- `MAC_REQ(key, msg)` -/
  | mac (key : Bytes32) (msg : List Byte)
  /-- `SLOT_REQ(index, input)` -/
  | slot (index : Byte) (input : Bytes32)
  /-- `READ(addr, n)` -/
  | read (addr n : Nat)
  /-- `ERASE(addr)` -/
  | erase (addr : Nat)
  /-- `WRITE(addr, b)` -/
  | write (addr : Nat) (bytes : List Byte)
  deriving DecidableEq, Repr

/-- A collaborator's response, with the constructors of R110. -/
inductive Response where
  /-- MAC `Ok(tag)` -/
  | macOk (tag : Bytes32)
  /-- MAC `CryptoFail` -/
  | cryptoFail
  /-- SLOT `Ok(out)` -/
  | slotOk (out : Bytes32)
  /-- SLOT `HwFail` -/
  | hwFail
  /-- READ `Ok(b)` -/
  | readOk (bytes : List Byte)
  /-- READ `Fail` -/
  | readFail
  /-- ERASE `Ok` -/
  | eraseOk
  /-- ERASE `AlreadyErased` -/
  | alreadyErased
  /-- ERASE `Fail` -/
  | eraseFail
  /-- WRITE `Ok` -/
  | writeOk
  /-- WRITE `Fail` -/
  | writeFail
  deriving DecidableEq, Repr

/-- The persistent record, in the form of the register `REC` (R36). -/
structure Record where
  /-- `REC.CNT`, 8-bit unsigned: attemptCount -/
  cnt : Byte
  /-- `REC.ENC[0..ROUNDS-1]`; its length is `ROUNDS` (DESIGN CHOICE, safe, notes/assumptions/22.md) -/
  enc : List Bytes32
  /-- `REC.TAG` -/
  tag : Bytes32
  deriving DecidableEq, Repr

/-- `REC` with every field zero, for a given `ROUNDS` (R36). -/
def Record.zero (rounds : Nat) : Record :=
  { cnt := 0, enc := List.replicate rounds zero32, tag := zero32 }

/-- The registers that `Zeroize` clears (R272): `IDX` (R33), `PIN` and `PINLEN` (R34), the seven 32-byte working
registers (R35) and `REC` (R36). -/
structure Regs where
  idx : Byte
  pin : Vector Byte 8
  pinlen : Byte
  s : Bytes32
  u : Bytes32
  v : Bytes32
  w : Bytes32
  k : Bytes32
  t : Bytes32
  fk : Bytes32
  record : Record
  deriving DecidableEq, Repr

/-- Every register of `Regs` at its reset value, zero (R33 to R36). -/
def Regs.zero (rounds : Nat) : Regs :=
  { idx := 0, pin := Vector.replicate 8 0, pinlen := 0, s := zero32, u := zero32, v := zero32, w := zero32, k := zero32,
    t := zero32, fk := zero32, record := Record.zero rounds }

/-- The response register (R37). -/
structure Rsp where
  /-- `RSP_VALID`, 1 bit -/
  valid : Bool
  /-- `RSP_STATUS`, 8 bits, a code of R107 -/
  status : Byte
  /-- `RSP_KEY`, 32 bytes -/
  key : Bytes32
  deriving DecidableEq, Repr

/-- BLOCK: the volatile state of the block (R32 to R40). -/
structure Block where
  /-- `PHASE` (R32) -/
  phase : Phase
  /-- `OUTSTANDING`, at most one request (R40) -/
  outstanding : Option Request
  /-- the registers of R33 to R36 -/
  regs : Regs
  /-- `RSP_VALID`, `RSP_STATUS`, `RSP_KEY` (R37) -/
  rsp : Rsp
  /-- `FAULT_CODE` (R38) -/
  faultCode : FaultCode
  deriving DecidableEq, Repr

/-- Every block register at its reset value (R350). -/
def Block.reset (rounds : Nat) : Block :=
  { phase := .idle, outstanding := none, regs := Regs.zero rounds,
    rsp := { valid := false, status := 0x00, key := zero32 }, faultCode := .none }

/-- The content of one store unit: `Erased`, or `Data(b)` (R44). -/
inductive StoreUnit where
  | erased
  | data (bytes : List Byte)
  deriving DecidableEq, Repr

/-- The record store's address space (R70, R71): the units that hold data, with their addresses, in canonical form
(`Memory.wf`). A unit that is not listed is `Erased`. The block reaches only the unit at `RECORD_ADDR`. DESIGN CHOICE, safe:
a unit is held whole and keyed by its address (notes/assumptions/4.md). -/
abbrev Memory := List (Nat × List Byte)

/-- ENV: the persistent state the collaborators own (R30, R44, R45). Only the block's requests change it (R84; UNVERIFIED,
unsafe, notes/assumptions/26.md). -/
structure Env where
  /-- the record store; `STORE` of R44 is its unit at `RECORD_ADDR` -/
  mem : Memory
  /-- `SLOT[0..ROUNDS-1]`; its length is `ROUNDS` -/
  slots : List SlotState
  deriving DecidableEq, Repr

/-- What a failed or interrupted store operation makes of the unit: the draw of R75, R76 and R351. -/
inductive UnitResidue where
  | unchanged
  | erased
  | data (bytes : List Byte)
  deriving DecidableEq, Repr

/-- What a failed or interrupted transaction leaves behind. The outstanding request says which part of it counts. -/
structure Residue where
  /-- the store unit after a failed or interrupted ERASE or WRITE -/
  unit : UnitResidue
  /-- the slot after a failed or interrupted slot operation -/
  slot : SlotState
  deriving DecidableEq, Repr

/-- The environment's draw at one transaction (R12, R74 to R76, R262, R265, R353). -/
inductive Answer where
  /-- the collaborator does what it is asked, so far as its contract lets it -/
  | ok
  /-- an ERASE is answered `AlreadyErased` and the unit is unchanged, also where it holds data (R75) -/
  | alreadyErased
  /-- a READ is answered with all the bytes of the unit, also where these are more than it asks for, so that a record of the
  wrong length faults (R234, R353); DEDUCED, safe (notes/assumptions/28.md) -/
  | wholeUnit
  /-- the transaction fails, and this is what it leaves -/
  | fail (left : Residue)
  deriving DecidableEq, Repr

/-- What comes to the block from outside, other than command frames (R313 agents 3 and 4). -/
inductive Input where
  /-- at this step neither the environment nor the power supply does anything -/
  | quiet
  /-- the environment answers the outstanding transaction -/
  | answer (a : Answer)
  /-- reset is asserted or power is lost, and this is what the interrupted transaction leaves (R351) -/
  | reset (left : Residue)
  deriving DecidableEq, Repr

/-- A PVE system (R30), with the two things its other agents will do. `host`, `inputs` and `refusal` are no registers of
the block. -/
structure State where
  /-- CFG (R31) -/
  cfg : Cfg
  /-- BLOCK (R32 to R40) -/
  blk : Block
  /-- ENV (R44, R45) -/
  env : Env
  /-- the frames the host presents and holds until the block accepts them, the next one first (R317); DESIGN CHOICE, safe
  (notes/assumptions/5.md) -/
  host : List Frame
  /-- the environment's answers, the resets and the quiet steps to come, the next one first; any list may stand here (R12,
  R351); DESIGN CHOICE, safe (notes/assumptions/6.md) -/
  inputs : List Input
  /-- the refusal mark, which stays for the rest of the run (R308) -/
  refusal : Option Refusal
  deriving DecidableEq, Repr

/-- A system at the first power-on of a new device: the block reset (R350, R353), every slot `Fresh` (R45, D17;
UNVERIFIED, unsafe, notes/assumptions/9.md), and a store content the spec leaves open (R44). The host presents nothing and
nothing else is to come. -/
def State.powerOn (cfg : Cfg) (mem : Memory) : State :=
  { cfg := cfg, blk := Block.reset cfg.rounds,
    env := { mem := mem, slots := List.replicate cfg.rounds .fresh }, host := [], inputs := [], refusal := none }

/-- The machine right after reset, with the configuration of `Cfg.built` and a store that holds nothing (DESIGN
CHOICE, unsafe, notes/assumptions/1.md and 2.md). -/
def State.reset : State := State.powerOn Cfg.built []

/-- Replace the register file of a block. -/
def Block.setRegs (b : Block) (r : Regs) : Block := { b with regs := r }
/-- Replace the block. -/
def State.setBlk (s : State) (b : Block) : State := { s with blk := b }
/-- Replace the environment. -/
def State.setEnv (s : State) (e : Env) : State := { s with env := e }
/-- Replace the frames the host presents. -/
def State.setHost (s : State) (h : List Frame) : State := { s with host := h }
/-- Replace the inputs to come. -/
def State.setInputs (s : State) (is : List Input) : State := { s with inputs := is }
/-- The inputs that are left when a quiet step has gone by: a first `quiet` is used up, and any other input stays. -/
def afterQuiet : List Input → List Input
  | .quiet :: is => is
  | is => is
/-- A step in which neither the environment nor the power supply does anything. -/
def State.passQuiet (s : State) : State := s.setInputs (afterQuiet s.inputs)
/-- Set the refusal mark. -/
def State.setRefusal (s : State) (r : Refusal) : State := { s with refusal := some r }

/-- `IDX <- x` -/
def Regs.setIdx (r : Regs) (x : Byte) : Regs := { r with idx := x }
/-- `PIN <- x` -/
def Regs.setPin (r : Regs) (x : Vector Byte 8) : Regs := { r with pin := x }
/-- `PINLEN <- x` -/
def Regs.setPinlen (r : Regs) (x : Byte) : Regs := { r with pinlen := x }
/-- `S <- x` -/
def Regs.setS (r : Regs) (x : Bytes32) : Regs := { r with s := x }
/-- `U <- x` -/
def Regs.setU (r : Regs) (x : Bytes32) : Regs := { r with u := x }
/-- `V <- x` -/
def Regs.setV (r : Regs) (x : Bytes32) : Regs := { r with v := x }
/-- `W <- x` -/
def Regs.setW (r : Regs) (x : Bytes32) : Regs := { r with w := x }
/-- `K <- x` -/
def Regs.setK (r : Regs) (x : Bytes32) : Regs := { r with k := x }
/-- `T <- x` -/
def Regs.setT (r : Regs) (x : Bytes32) : Regs := { r with t := x }
/-- `FK <- x` -/
def Regs.setFk (r : Regs) (x : Bytes32) : Regs := { r with fk := x }
/-- `REC <- x` -/
def Regs.setRecord (r : Regs) (x : Record) : Regs := { r with record := x }

end Sys2Proof.Machine
end

