-- ==== Sys2Proof/Machine/Operands.lean ====
section
/-! DEFINITION. The operand forms: how a command's fields are loaded into registers (spec/30_encoding.md R103) and which
bytes the MAC transactions send (spec/43_datapath_ports.md R263), and the bytewise operation on 32-byte values (R270). -/

namespace Sys2Proof.Machine

/-- The 32 bytes at the head of a byte sequence, byte 0 first (R103 `S`, R232). Bytes the sequence lacks read as 0x00;
no rule reads one. -/
def bytes32 (l : List Byte) : Bytes32 := Vector.ofFn fun j : Fin 32 => l.getD j 0

/-- The PIN register: the PIN bytes and then 0x00 up to byte 7 (R34, R103, D27). -/
def pinPadded (l : List Byte) : Vector Byte 8 := Vector.ofFn fun j : Fin 8 => l.getD j 0

/-- `PINLEN <- F[1]; PIN[0..7] <- F[2..1+PLEN] ++ zeros` (R141, R181). -/
def Regs.loadPin (r : Regs) (n : Byte) (pin : List Byte) : Regs := (r.setPinlen n).setPin (pinPadded pin)

/-- `PIN[0..PINLEN-1]`, the PIN message of a MAC transaction: exactly `PINLEN` bytes, the padding is not sent (R144,
R263). -/
def Regs.pinMsg (r : Regs) : List Byte := r.pin.toList.take r.pinlen.toNat

/-- `XOR32(a, b)`: bytewise exclusive-or, 32 independent lanes (R270). -/
def xor32 (a b : Bytes32) : Bytes32 := Vector.ofFn fun j : Fin 32 => a[j] ^^^ b[j]

/-- The attempt counter loaded with `ROUNDS` (R143, R193, R274 LOAD). -/
def Record.load (r : Record) (rounds : Nat) : Record := { r with cnt := BitVec.ofNat 8 rounds }
/-- The attempt counter decremented (R185, R274 DEC). -/
def Record.dec (r : Record) : Record := { r with cnt := r.cnt - 1 }
/-- `REC.ENC[i] <- x` (R149). -/
def Record.setEnc (r : Record) (i : Nat) (x : Bytes32) : Record := { r with enc := r.enc.set i x }
/-- `REC.TAG <- x` (R144). -/
def Record.setTag (r : Record) (x : Bytes32) : Record := { r with tag := x }

end Sys2Proof.Machine
end

