-- ==== Sys2Proof/Machine/Codec.lean ====
section
/-! DEFINITION. The record codec (spec/42_codec.md R230 to R236): a pure function of its operand and `ROUNDS`. -/

namespace Sys2Proof.Machine

/-- `ENCODE(REC)`: the counter, the `ENC` blocks in order, the tag (R233). -/
def encodeRecord (r : Record) : List Byte := r.cnt :: (r.enc.flatMap Vector.toList ++ r.tag.toList)

/-- `n` consecutive 32-byte fields from the head of a byte sequence (R232). -/
def blocksFrom : Nat → List Byte → List Bytes32
  | 0, _ => []
  | n + 1, b => bytes32 b :: blocksFrom n (b.drop 32)

/-- `DECODE(b)`: the length is tested first, then the counter's range; any bytes stand in `ENC` and `TAG` (R234). -/
def decodeRecord (rounds : Nat) (b : List Byte) : Except FaultCode Record :=
  if b.length ≠ 33 + 32 * rounds then .error .protocol
  else if (b.getD 0 0).toNat > rounds then .error .recordRange
  else
    .ok { cnt := b.getD 0 0, enc := blocksFrom rounds (b.drop 1), tag := bytes32 (b.drop (1 + 32 * rounds)) }

/-- The well-formed content of the record's unit (R47). -/
abbrev WellFormedRecord (rounds : Nat) (b : List Byte) : Prop :=
  b.length = 33 + 32 * rounds ∧ (b.getD 0 0).toNat ≤ rounds

end Sys2Proof.Machine
end

