-- ==== Sys2Proof/Machine/Flags.lean ====
section
/-! DEFINITION. The block has no flag register; these are the booleans its transitions compute and consume
(spec/10_state.md R41), but for the erase outcome, which `onErase` of Machine/Ops.lean tests. -/

namespace Sys2Proof.Machine

/-- The frame-validity check of SETUP (R104): `F[1]` is there, 4 ≤ `F[1]` ≤ 8, and the frame's length is 34 + `F[1]`,
which is to say a full PIN field and exactly 32 secret bytes after it. -/
def validSetup (plen : Option Byte) (pin sec : List Byte) : Bool :=
  match plen with
  | none => false
  | some n =>
    decide (pinMin ≤ n.toNat ∧ n.toNat ≤ pinMax ∧ pin.length = n.toNat ∧ sec.length = secretLen)

/-- The frame-validity check of VERIFY (R104): `F[1]` is there, 4 ≤ `F[1]` ≤ 8, and the frame's length is 2 + `F[1]`,
which is to say a full PIN field and no byte after it. -/
def validVerify (plen : Option Byte) (pin excess : List Byte) : Bool :=
  match plen with
  | none => false
  | some n =>
    decide (pinMin ≤ n.toNat ∧ n.toNat ≤ pinMax ∧ pin.length = n.toNat ∧ excess.length = 0)

/-- The lockout test `REC.CNT = 0` (R184). -/
def lockedOut (r : Record) : Bool := decide (r.cnt = 0)

/-- `EQ32(a, b)`: the AND of the 32 lane equalities, every lane examined (R271, D23). -/
def eq32 (a b : Bytes32) : Bool :=
  (List.finRange 32).foldl (fun acc j => (a[j] == b[j]) && acc) true

/-- The loop test of SETUP, `IDX < ROUNDS` (R145). -/
def setupLoops (cfg : Cfg) (r : Regs) : Bool := decide (r.idx.toNat < cfg.rounds)

/-- The loop test of the re-commit sequencer, `IDX + 2 ≤ ROUNDS` without wrapping (R192, D26). -/
def recommitLoops (cfg : Cfg) (r : Regs) : Bool := decide (r.idx.toNat + 2 ≤ cfg.rounds)

end Sys2Proof.Machine
end

