-- ==== Sys2Proof/Machine/Memory.lean ====
section
/-! DEFINITION. The named operations over the record store: one unit read, written or erased as a whole (spec/20_memory.md
R70 to R73). There is no access to part of a unit (R72). -/

namespace Sys2Proof.Machine

/-- The canonical form of a store: unit addresses strictly rising, so that no unit is listed twice. An entry always holds
data, so none equals what an unlisted unit reads as (`Erased`). -/
abbrev Memory.wf (m : Memory) : Prop := (m.map Prod.fst).Pairwise (· < ·)

/-- The content of the unit at address `a`; an unlisted unit is `Erased` (R44). -/
def Memory.unit : Memory → Nat → StoreUnit
  | [], _ => .erased
  | (k, b) :: m, a => if k = a then .data b else Memory.unit m a

/-- Byte `j` of the unit at `a`, counted from the unit's byte 0 (R73); `none` where the unit holds no such byte. -/
def Memory.byte (m : Memory) (a j : Nat) : Option Byte :=
  match m.unit a with
  | .erased => none
  | .data b => b[j]?

/-- Make the unit at `a` hold `Data(b)` (R76). -/
def Memory.write : Memory → Nat → List Byte → Memory
  | [], a, b => [(a, b)]
  | (k, c) :: m, a, b =>
    if a < k then (a, b) :: (k, c) :: m
    else if a = k then (a, b) :: m
    else (k, c) :: Memory.write m a b

/-- Make the unit at `a` `Erased` (R75). -/
def Memory.erase : Memory → Nat → Memory
  | [], _ => []
  | (k, c) :: m, a => if k = a then Memory.erase m a else (k, c) :: Memory.erase m a

/-- `STORE` (R44): the content of the one unit at `RECORD_ADDR`. -/
def State.store (s : State) : StoreUnit := s.env.mem.unit s.cfg.recordAddr

end Sys2Proof.Machine
end

