-- ==== Sys2Proof/Machine/Ops.lean ====
section
/-! DEFINITION. The shared operations of the block: completing a command, ending one with an error (the PVE's trap entry)
or with a fault, and the block's side of the three ports (spec/43_datapath_ports.md, spec/60_exceptions.md). There is no
return from an error: the abort itself leads back to IDLE (R310). -/

namespace Sys2Proof.Machine

/-- The outcomes of a command that have a status (R107). -/
inductive Status where
  | ok | authSuccess | authFailure | paramError | cryptoError | hardwareError | storageError
  deriving DecidableEq, Repr

/-- The value of `RSP_STATUS` for a status (R107). -/
def Status.code : Status → Byte
  | .ok => 0x00
  | .authSuccess => 0x01
  | .authFailure => 0x02
  | .paramError => 0x03
  | .cryptoError => 0x04
  | .hardwareError => 0x05
  | .storageError => 0x06

/-- The conditions `raise` ends a command with (R301, R303). -/
inductive CmdError where
  | authFailure | paramError | cryptoError | hardwareError | storageError
  deriving DecidableEq, Repr

/-- `code(E)`: the status an error is reported as (R303). -/
def CmdError.status : CmdError → Status
  | .authFailure => .authFailure
  | .paramError => .paramError
  | .cryptoError => .cryptoError
  | .hardwareError => .hardwareError
  | .storageError => .storageError

/-- `Respond(status, key)` (R273). -/
def Block.respond (b : Block) (st : Status) (key : Bytes32) : Block :=
  { b with rsp := { valid := true, status := st.code, key := key } }

/-- `Zeroize()`: 0 to every register of R272, and nothing else changes. -/
def Block.zeroize (b : Block) : Block := { b with regs := Regs.zero b.regs.record.enc.length }

/-- `phase <- P`, at the end of a command: nothing is outstanding in IDLE and FAULT (R40). -/
def Block.stopIn (b : Block) (p : Phase) : Block := { b with phase := p, outstanding := none }

/-- `Respond(status, key); Zeroize(); phase <- IDLE`, in one step (R273). -/
def Block.complete (b : Block) (st : Status) (key : Bytes32) : Block := ((b.respond st key).zeroize).stopIn .idle

/-- `raise E`, the trap entry of the PVE: the status, no key, every working register zero, phase IDLE; nothing is saved
and nothing rolled back (R303, R305, R108). -/
def Block.raise (b : Block) (e : CmdError) : Block := b.complete e.status zero32

/-- `raise Fault(name)`: the fault code, every working register zero, phase FAULT; `RSP_VALID` is not set (R307). -/
def Block.raiseFault (b : Block) (c : FaultCode) : Block := ({ b with faultCode := c }.zeroize).stopIn .fault

/-- Acceptance of a command: `RSP_VALID <- 0` (R317). `RSP_STATUS` and `RSP_KEY` stay, and mean nothing (R37; DEDUCED, safe,
notes/assumptions/20.md). -/
def Block.accept (b : Block) : Block := { b with rsp := { b.rsp with valid := false } }

/-- At an awaiting primitive: `OUTSTANDING` gets the request, and `PHASE` the phase of its line (R260). -/
def Block.await (b : Block) (p : Phase) (r : Request) : Block := { b with phase := p, outstanding := some r }

/-- The request of `MacReq(key, msg)` (R261). -/
def Block.macReq (b : Block) (p : Phase) (key : Bytes32) (msg : List Byte) : Block := b.await p (.mac key msg)
/-- The request of `SlotReq(i, x)` (R264). -/
def Block.slotReq (b : Block) (p : Phase) (i : Byte) (x : Bytes32) : Block := b.await p (.slot i x)
/-- The request of `MemRead(RECORD_ADDR, RECSIZE)` (R267). -/
def Block.memRead (b : Block) (cfg : Cfg) (p : Phase) : Block := b.await p (.read cfg.recordAddr cfg.recSize)
/-- The request of `MemErase(RECORD_ADDR, mode)` (R268); the mode counts at the response. -/
def Block.memErase (b : Block) (cfg : Cfg) (p : Phase) : Block := b.await p (.erase cfg.recordAddr)
/-- The request of `MemWrite(RECORD_ADDR, RECSIZE, ENCODE(REC))` (R269). -/
def Block.memWrite (b : Block) (cfg : Cfg) (p : Phase) : Block :=
  b.await p (.write cfg.recordAddr (encodeRecord b.regs.record))

/-- The `mode` operand of `MemErase` (R268). -/
inductive EraseMode where
  | setup
  | strict
  deriving DecidableEq, Repr

/-- The response to `MacReq` (R261): go on with the tag, or raise CryptoError. -/
def onMac (r : Response) (b : Block) (k : Bytes32 → Except Fault Block) : Except Fault Block :=
  match r with
  | .macOk t => k t
  | .cryptoFail => .ok (b.raise .cryptoError)
  | .slotOk _ | .hwFail | .readOk _ | .readFail | .eraseOk |
    .alreadyErased | .eraseFail | .writeOk | .writeFail => .error .responseMismatch

/-- The response to `SlotReq` (R264): go on with the output, or raise HardwareError. -/
def onSlot (r : Response) (b : Block) (k : Bytes32 → Except Fault Block) : Except Fault Block :=
  match r with
  | .slotOk o => k o
  | .hwFail => .ok (b.raise .hardwareError)
  | .macOk _ | .cryptoFail | .readOk _ | .readFail | .eraseOk |
    .alreadyErased | .eraseFail | .writeOk | .writeFail => .error .responseMismatch

/-- The response to `MemRead` (R267): go on with the bytes, or raise StorageError. -/
def onRead (r : Response) (b : Block) (k : List Byte → Except Fault Block) : Except Fault Block :=
  match r with
  | .readOk bytes => k bytes
  | .readFail => .ok (b.raise .storageError)
  | .macOk _ | .cryptoFail | .slotOk _ | .hwFail | .eraseOk |
    .alreadyErased | .eraseFail | .writeOk | .writeFail => .error .responseMismatch

/-- The response to `MemErase` (R268), with the erase-outcome test: `AlreadyErased` goes on in SETUP_MODE only. -/
def onErase (mode : EraseMode) (r : Response) (b : Block) (k : Except Fault Block) : Except Fault Block :=
  match r with
  | .eraseOk => k
  | .alreadyErased =>
    match mode with
    | .setup => k
    | .strict => .ok (b.raise .storageError)
  | .eraseFail => .ok (b.raise .storageError)
  | .macOk _ | .cryptoFail | .slotOk _ | .hwFail | .readOk _ |
    .readFail | .writeOk | .writeFail => .error .responseMismatch

/-- The response to `MemWrite` (R269): go on, or raise StorageError. -/
def onWrite (r : Response) (b : Block) (k : Except Fault Block) : Except Fault Block :=
  match r with
  | .writeOk => k
  | .writeFail => .ok (b.raise .storageError)
  | .macOk _ | .cryptoFail | .slotOk _ | .hwFail | .readOk _ |
    .readFail | .eraseOk | .alreadyErased | .eraseFail => .error .responseMismatch

end Sys2Proof.Machine
end

