-- ==== Sys2Proof/Machine/Setup.lean ====
section
/-! DEFINITION. SETUP (spec/40_setup.md R140 to R159): its ACCEPT step, and what the block does after each `Ok` response of
its transactions. `setupAfter<X>` runs the lines of R141 from the response in phase `S_<X>` to the next awaiting
primitive. -/

namespace Sys2Proof.Machine

/-- SETUP, the ACCEPT step (R141, R260, R317): the frame-validity check, the operand loads, and step 1's erase request. A
frame presented in another phase than IDLE is not accepted: nothing changes (DEDUCED, safe, notes/assumptions/17.md). -/
def execSetup (plen : Option Byte) (pin sec : List Byte) (s : State) : Host.Outcome State Fault Refusal :=
  if s.blk.phase = .idle then
    let b := s.blk.accept
    .next (s.setBlk (
      if validSetup plen pin sec then
        (b.setRegs ((b.regs.loadPin (plen.getD 0) pin).setS (bytes32 sec))).memErase s.cfg .sErase
      else b.raise .paramError))
  else .next s

/-- Step 2, and the request of step 3 (R143, R144). -/
def setupAfterErase (cfg : Cfg) (b : Block) : Block :=
  (b.setRegs (b.regs.setRecord (b.regs.record.load cfg.rounds))).macReq .sMacTag b.regs.s labelTag

/-- `REC.TAG`, and the request of step 4 (R144). -/
def setupAfterMacTag (b : Block) (tag : Bytes32) : Block :=
  (b.setRegs (b.regs.setRecord (b.regs.record.setTag tag))).macReq .sMacU b.regs.s labelRekey

/-- `U`, and the request of step 5 (R144). -/
def setupAfterMacU (b : Block) (u : Bytes32) : Block :=
  (b.setRegs (b.regs.setU u)).macReq .sMacV zero32 b.regs.pinMsg

/-- The loop test of step 6: the commit of the next slot, or the write of step 7 (R145, R146, R150). -/
def setupLoop (cfg : Cfg) (b : Block) : Block :=
  if setupLoops cfg b.regs then b.slotReq .sSlotA b.regs.idx b.regs.u
  else b.memWrite cfg .sWrite

/-- `V`, `IDX <- 0`, and the loop of step 6 (R144, R145). -/
def setupAfterMacV (cfg : Cfg) (b : Block) (v : Bytes32) : Block :=
  setupLoop cfg (b.setRegs ((b.regs.setV v).setIdx 0))

/-- The output of the commit is discarded; the request of step 6b (R146, R147). -/
def setupAfterSlotA (b : Block) : Block := b.slotReq .sSlotB b.regs.idx b.regs.v

/-- `W`, and the request of step 6c (R147, R148). -/
def setupAfterSlotB (b : Block) (w : Bytes32) : Block :=
  (b.setRegs (b.regs.setW w)).slotReq .sSlotC b.regs.idx b.regs.u

/-- The output of the re-commit is discarded; the request of step 6d (R148, R149). -/
def setupAfterSlotC (b : Block) : Block := b.macReq .sMacK b.regs.w b.regs.pinMsg

/-- `K`, step 6e, `IDX <- IDX + 1`, and the loop test again (R149, R145). -/
def setupAfterMacK (cfg : Cfg) (b : Block) (k : Bytes32) : Except Fault Block :=
  if b.regs.idx.toNat < b.regs.record.enc.length then
    .ok (setupLoop cfg (b.setRegs
      (((b.regs.setK k).setRecord (b.regs.record.setEnc b.regs.idx.toNat (xor32 b.regs.s k))).setIdx (b.regs.idx + 1))))
  else .error .noSuchBlock

/-- The request of step 8 (R151). -/
def setupAfterWrite (b : Block) : Block := b.macReq .sMacFinal b.regs.s labelFinal

/-- `FK`, and step 9 (R151, R152). -/
def setupAfterMacFinal (b : Block) (fk : Bytes32) : Block := (b.setRegs (b.regs.setFk fk)).complete .ok fk

end Sys2Proof.Machine
end

