-- ==== Sys2Proof/Machine/Verify.lean ====
section
/-! DEFINITION. VERIFY (spec/41_verify.md R180 to R205): its ACCEPT step, and what the block does after each `Ok` response
of its transactions. `verifyAfter<X>` runs the lines of R181 from the response in phase `V_<X>` to the next awaiting
primitive. -/

namespace Sys2Proof.Machine

/-- VERIFY, the ACCEPT step (R181, R260, R317): the frame-validity check, the operand loads, and step 1's read request. A
frame presented in another phase than IDLE is not accepted: nothing changes (DEDUCED, safe, notes/assumptions/17.md). -/
def execVerify (plen : Option Byte) (pin excess : List Byte) (s : State) : Host.Outcome State Fault Refusal :=
  if s.blk.phase = .idle then
    let b := s.blk.accept
    .next (s.setBlk (
      if validVerify plen pin excess then (b.setRegs (b.regs.loadPin (plen.getD 0) pin)).memRead s.cfg .vRead
      else b.raise .paramError))
  else .next s

/-- `REC <- DECODE(b)`, the lockout test, the decrement, and the erase request of step 3 (R183, R184, R185). -/
def verifyAfterRead (cfg : Cfg) (b : Block) (bytes : List Byte) : Block :=
  match decodeRecord cfg.rounds bytes with
  | .error c => b.raiseFault c
  | .ok rec =>
    if lockedOut rec then (b.setRegs (b.regs.setRecord rec)).raise .authFailure
    else (b.setRegs (b.regs.setRecord rec.dec)).memErase cfg .vEraseDec

/-- The write request of step 3 (R185). -/
def verifyAfterEraseDec (cfg : Cfg) (b : Block) : Block := b.memWrite cfg .vWriteDec

/-- The request of step 4 (R186). -/
def verifyAfterWriteDec (b : Block) : Block := b.macReq .vMacV zero32 b.regs.pinMsg

/-- `V`, and the slot request of step 5 at the decremented counter (R186, R187). -/
def verifyAfterMacV (b : Block) (v : Bytes32) : Block :=
  (b.setRegs (b.regs.setV v)).slotReq .vSlot b.regs.record.cnt v

/-- `W`, and the request of step 6 (R187, R188). -/
def verifyAfterSlot (b : Block) (w : Bytes32) : Block := (b.setRegs (b.regs.setW w)).macReq .vMacK w b.regs.pinMsg

/-- `K`, step 7, and the request of step 8 (R188, R189). -/
def verifyAfterMacK (b : Block) (k : Bytes32) : Except Fault Block :=
  match b.regs.record.enc[b.regs.record.cnt.toNat]? with
  | none => .error .noSuchBlock
  | some e => .ok ((b.setRegs ((b.regs.setK k).setS (xor32 e k))).macReq .vMacT (xor32 e k) labelTag)

/-- `T`, the tag test, and the request of step 11a or the mismatch of step 10 (R189, R190, R191). -/
def verifyAfterMacT (b : Block) (t : Bytes32) : Block :=
  let b' := b.setRegs (b.regs.setT t)
  if eq32 t b.regs.record.tag then b'.macReq .vMacU b.regs.s labelRekey else b'.raise .authFailure

/-- The loop test of step 11b: the re-commit of the next slot, or step 11c and the erase request of step 11d (R192,
R193). -/
def recommitLoop (cfg : Cfg) (b : Block) : Block :=
  if recommitLoops cfg b.regs then b.slotReq .vRecommit b.regs.idx b.regs.u
  else (b.setRegs (b.regs.setRecord (b.regs.record.load cfg.rounds))).memErase cfg .vEraseRst

/-- `U`, `IDX <- REC.CNT`, and the loop of step 11b (R191, R192). -/
def verifyAfterMacU (cfg : Cfg) (b : Block) (u : Bytes32) : Block :=
  recommitLoop cfg (b.setRegs ((b.regs.setU u).setIdx b.regs.record.cnt))

/-- The output is discarded; `IDX <- IDX + 1`, and the loop test again (R192). -/
def verifyAfterRecommit (cfg : Cfg) (b : Block) : Block :=
  recommitLoop cfg (b.setRegs (b.regs.setIdx (b.regs.idx + 1)))

/-- The write request of step 11d (R193). -/
def verifyAfterEraseRst (cfg : Cfg) (b : Block) : Block := b.memWrite cfg .vWriteRst

/-- The request of step 11e (R194). -/
def verifyAfterWriteRst (b : Block) : Block := b.macReq .vMacFinal b.regs.s labelFinal

/-- `FK`, and step 11f (R194). -/
def verifyAfterMacFinal (b : Block) (fk : Bytes32) : Block := (b.setRegs (b.regs.setFk fk)).complete .authSuccess fk

end Sys2Proof.Machine
end

