-- ==== Sys2Proof/Machine/Dispatch.lean ====
section
/-! DEFINITION. The meaning of each command: one arm per constructor of Instr, each the command's ACCEPT step (R260). -/

namespace Sys2Proof.Machine

def exec (i : Instr) (s : State) : Host.Outcome State Fault Refusal :=
  match i with
  | .setup plen pin sec => Sys2Proof.Machine.execSetup plen pin sec s
  | .verify plen pin excess => Sys2Proof.Machine.execVerify plen pin excess s

end Sys2Proof.Machine
end

