-- ==== Sys2Proof/Machine/Environment.lean ====
section
/-! DEFINITION. The collaborators at their ports: the contracts of the record store (spec/20_memory.md R74 to R76), the MAC
(spec/43_datapath_ports.md R262) and the slot bank (R265), and what an interrupted transaction leaves
(spec/70_reset_and_hazards.md R351). -/

namespace Sys2Proof.Machine

/-- The unit at `a` after an operation that left `u` of it. A unit never holds more bytes than `STORE_UNIT_SIZE` (R44;
DEDUCED, safe, notes/assumptions/12.md). -/
def leaveUnit (cfg : Cfg) (m : Memory) (a : Nat) (u : UnitResidue) : Memory :=
  match u with
  | .unchanged => m
  | .erased => m.erase a
  | .data b => m.write a (b.take cfg.storeUnitSize)

/-- After an ERASE that failed or was interrupted the unit is unchanged or `Erased` (R75, R351). -/
def afterBadErase (m : Memory) (a : Nat) (u : UnitResidue) : Memory :=
  match u with
  | .erased => m.erase a
  | _ => m

/-- ENV after the outstanding request answered its failure: `Fail`, `CryptoFail` or `HwFail` (R74 to R76, R262, R265). A
slot index outside the bank names no slot, and leaves every slot as it is. After a WRITE that answered `Fail` the unit may
hold any value, `Erased` included (D10; DEDUCED, safe, notes/assumptions/11.md). -/
def Env.failed (cfg : Cfg) (e : Env) (req : Request) (left : Residue) : Env :=
  match req with
  | .mac _ _ => e
  | .read _ _ => e
  | .slot i _ => { e with slots := e.slots.set i.toNat left.slot }
  | .erase a => { e with mem := afterBadErase e.mem a left.unit }
  | .write a _ => { e with mem := leaveUnit cfg e.mem a left.unit }

/-- ENV after a reset or power loss while the request was outstanding (the table of R351). -/
def Env.interrupted (cfg : Cfg) (e : Env) (req : Option Request) (left : Residue) : Env :=
  match req with
  | none => e
  | some (.mac _ _) => e
  | some (.read _ _) => e
  | some (.slot i _) => { e with slots := e.slots.set i.toNat left.slot }
  | some (.erase a) => { e with mem := afterBadErase e.mem a left.unit }
  | some (.write a _) => { e with mem := leaveUnit cfg e.mem a left.unit }

/-- The outcome of an environment step. -/
inductive EnvStep where
  /-- the response that is delivered, and ENV with the request's effect -/
  | answered (r : Response) (e : Env)
  /-- the draw is no response to this request, so none is delivered -/
  | silent
  /-- the request names a slot outside the slot address space -/
  | fault (f : Fault)

/-- The failure response of a request's port (R110). -/
def failureOf : Request → Response
  | .mac _ _ => .cryptoFail
  | .slot _ _ => .hwFail
  | .read _ _ => .readFail
  | .erase _ => .eraseFail
  | .write _ _ => .writeFail

/-- A request the collaborator is willing to serve (R74 to R76, R262, R265). A READ of a unit with more bytes than asked
returns the first ones (R74; the draw `wholeUnit` gives the other reading, that of R353, notes/assumptions/28.md). A READ
of an `Erased` unit still fails (UNVERIFIED, unsafe, D10, notes/assumptions/10.md), and an ERASE of one is still answered
`AlreadyErased` (DEDUCED, safe, notes/assumptions/23.md). -/
def serve (c : Collaborators) (e : Env) (req : Request) : EnvStep :=
  match req with
  | .mac key msg => .answered (.macOk (c.mac key msg)) e
  | .slot i x =>
    match e.slots[i.toNat]? with
    | none => .fault .noSuchSlot
    | some st => .answered (.slotOk (c.slotOut i st x)) { e with slots := e.slots.set i.toNat (.keyed x) }
  | .read a n =>
    match e.mem.unit a with
    | .erased => .answered .readFail e
    | .data b => .answered (.readOk (b.take n)) e
  | .erase a =>
    match e.mem.unit a with
    | .erased => .answered .alreadyErased e
    | .data _ => .answered .eraseOk { e with mem := e.mem.erase a }
  | .write a b => .answered .writeOk { e with mem := e.mem.write a b }

/-- A READ answered with the whole unit, however many bytes it holds (R234, R353); an `Erased` unit fails (R74). Only a READ
can be answered so. -/
def serveWhole (e : Env) (req : Request) : EnvStep :=
  match req with
  | .read a _ =>
    match e.mem.unit a with
    | .erased => .answered .readFail e
    | .data b => .answered (.readOk b) e
  | .mac _ _ | .slot _ _ | .erase _ | .write _ _ => .silent

/-- One environment step (R260): the draw decides how the one outstanding request is answered, the request's effect on ENV
happens, and one response results. -/
def envAnswer (c : Collaborators) (cfg : Cfg) (e : Env) (req : Request) (a : Answer) : EnvStep :=
  match a with
  | .ok => serve c e req
  | .alreadyErased =>
    match req with
    | .erase _ => .answered .alreadyErased e
    | _ => .silent
  | .wholeUnit => serveWhole e req
  | .fail left => .answered (failureOf req) (e.failed cfg req left)

end Sys2Proof.Machine
end

