-- ==== Sys2Proof/Machine/Sequencer.lean ====
section
/-! DEFINITION. The RESPONSE step of the block (spec/43_datapath_ports.md R260): the table of the phases, each with the port
it waits on and the lines that follow (spec/10_state.md R32). -/

namespace Sys2Proof.Machine

/-- The block handles the response to its outstanding transaction, and runs to the next awaiting primitive or to
completion (R260). In IDLE and FAULT nothing is outstanding, so there is no response to handle. -/
def resume (cfg : Cfg) (b : Block) (r : Response) : Except Fault Block :=
  match b.phase with
  | .idle => .error .responseMismatch
  | .sErase => onErase .setup r b (.ok (setupAfterErase cfg b))
  | .sMacTag => onMac r b fun t => .ok (setupAfterMacTag b t)
  | .sMacU => onMac r b fun u => .ok (setupAfterMacU b u)
  | .sMacV => onMac r b fun v => .ok (setupAfterMacV cfg b v)
  | .sSlotA => onSlot r b fun _ => .ok (setupAfterSlotA b)
  | .sSlotB => onSlot r b fun w => .ok (setupAfterSlotB b w)
  | .sSlotC => onSlot r b fun _ => .ok (setupAfterSlotC b)
  | .sMacK => onMac r b fun k => setupAfterMacK cfg b k
  | .sWrite => onWrite r b (.ok (setupAfterWrite b))
  | .sMacFinal => onMac r b fun fk => .ok (setupAfterMacFinal b fk)
  | .vRead => onRead r b fun bytes => .ok (verifyAfterRead cfg b bytes)
  | .vEraseDec => onErase .strict r b (.ok (verifyAfterEraseDec cfg b))
  | .vWriteDec => onWrite r b (.ok (verifyAfterWriteDec b))
  | .vMacV => onMac r b fun v => .ok (verifyAfterMacV b v)
  | .vSlot => onSlot r b fun w => .ok (verifyAfterSlot b w)
  | .vMacK => onMac r b fun k => verifyAfterMacK b k
  | .vMacT => onMac r b fun t => .ok (verifyAfterMacT b t)
  | .vMacU => onMac r b fun u => .ok (verifyAfterMacU cfg b u)
  | .vRecommit => onSlot r b fun _ => .ok (verifyAfterRecommit cfg b)
  | .vEraseRst => onErase .strict r b (.ok (verifyAfterEraseRst cfg b))
  | .vWriteRst => onWrite r b (.ok (verifyAfterWriteRst b))
  | .vMacFinal => onMac r b fun fk => .ok (verifyAfterMacFinal b fk)
  | .fault => .error .responseMismatch

/-- The request each phase waits on, from the configuration and the registers (the table of R32). -/
def phaseRequest (cfg : Cfg) (r : Regs) : Phase → Option Request
  | .idle => none
  | .sErase => some (.erase cfg.recordAddr)
  | .sMacTag => some (.mac r.s labelTag)
  | .sMacU => some (.mac r.s labelRekey)
  | .sMacV => some (.mac zero32 r.pinMsg)
  | .sSlotA => some (.slot r.idx r.u)
  | .sSlotB => some (.slot r.idx r.v)
  | .sSlotC => some (.slot r.idx r.u)
  | .sMacK => some (.mac r.w r.pinMsg)
  | .sWrite => some (.write cfg.recordAddr (encodeRecord r.record))
  | .sMacFinal => some (.mac r.s labelFinal)
  | .vRead => some (.read cfg.recordAddr cfg.recSize)
  | .vEraseDec => some (.erase cfg.recordAddr)
  | .vWriteDec => some (.write cfg.recordAddr (encodeRecord r.record))
  | .vMacV => some (.mac zero32 r.pinMsg)
  | .vSlot => some (.slot r.record.cnt r.v)
  | .vMacK => some (.mac r.w r.pinMsg)
  | .vMacT => some (.mac r.s labelTag)
  | .vMacU => some (.mac r.s labelRekey)
  | .vRecommit => some (.slot r.idx r.u)
  | .vEraseRst => some (.erase cfg.recordAddr)
  | .vWriteRst => some (.write cfg.recordAddr (encodeRecord r.record))
  | .vMacFinal => some (.mac r.s labelFinal)
  | .fault => none

end Sys2Proof.Machine
end

