-- ==== Sys2Proof/Machine/System.lean ====
section
/-! DEFINITION. One step of the whole system: reset, acceptance of a command, one answered transaction, or holding
(spec/43_datapath_ports.md R260, spec/60_exceptions.md R306, R313, R317, spec/70_reset_and_hazards.md R350, R351). -/

namespace Sys2Proof.Machine

/-- The name under which a frame that spells no command is marked (R105, R308). -/
def refusalOf : DecodeError → Refusal
  | .emptyFrame => .emptyFrame
  | .reservedOpcode opc => .reservedOpcode opc

/-- A refusal: the mark is recorded, the first one stays for the rest of the run, and neither the block nor ENV changes
(R308). DEDUCED: the run goes on; unsafe for a claim without the premise of no mark (notes/assumptions/13.md). -/
def State.refuse (s : State) (r : Refusal) : State := s.setRefusal (s.refusal.getD r)

/-- Reset or power loss (R350, R351): every block register takes its reset value, the outstanding transaction's effect on
ENV is the drawn one, and CFG, the other units and slots, and a frame the host holds (R317) stay (DEDUCED, safe,
notes/assumptions/21.md). -/
def State.applyReset (s : State) (left : Residue) : State :=
  { s with blk := Block.reset s.cfg.rounds, env := s.env.interrupted s.cfg s.blk.outstanding left }

/-- The ACCEPT step in phase IDLE: the next frame of the host is taken and run (R317). A reserved frame is not accepted: it
leaves the refusal mark and changes neither the block nor ENV (R105, R308). -/
def acceptNext (s : State) : Host.Outcome State Fault Refusal :=
  match s.host with
  | [] => .next s
  | f :: fs =>
    match decode f with
    | .ok i => exec i (s.setHost fs)
    | .error e => .next ((s.setHost fs).refuse (refusalOf e))

/-- The environment answers the outstanding transaction, and the block handles the response (R260). Without an outstanding
transaction, or with a draw that is no response to it, the block holds. -/
def answerNext (c : Collaborators) (s : State) (a : Answer) : Host.Outcome State Fault Refusal :=
  match s.blk.outstanding with
  | none => .next s
  | some req =>
    match envAnswer c s.cfg s.env req a with
    | .silent => .next s
    | .fault f => .fault f
    | .answered r e =>
      match resume s.cfg s.blk r with
      | .error f => .fault f
      | .ok b => .next ((s.setEnv e).setBlk b)

/-- Whether a frame waits for a block in IDLE. -/
def State.canAccept (s : State) : Bool := decide (s.blk.phase = .idle) && !s.host.isEmpty

/-- A step in which nothing comes but the host's frame: it is accepted if the block is IDLE; else the block holds (R260,
R317). -/
def acceptOrHold (s : State) : Host.Outcome State Fault Refusal := if s.canAccept then acceptNext s else .next s

/-- One step of the system, with the collaborators as a parameter (R12). A reset comes before everything else (R306 item
4); then a frame is accepted if the block is IDLE; else the environment gives its next answer; else the block holds, for
ever if nothing comes (R260, R362). A `quiet` is used up by the step, so that a reset can follow an acceptance at once
(R313, R351). For an illegal configuration there is no block: it is refused, and nothing else happens
(R6, R31, R308; DEDUCED, safe, notes/assumptions/14.md). The order of the inputs and what becomes of an answer that answers
nothing are the model's (DESIGN CHOICE, safe, notes/assumptions/6.md). A step is indivisible and has no duration (R260, R361;
UNVERIFIED, unsafe, notes/assumptions/27.md). -/
def systemStep (c : Collaborators) (s : State) : Host.Outcome State Fault Refusal :=
  if s.cfg.legal then
    match s.inputs with
    | .reset left :: is => .next ((s.setInputs is).applyReset left)
    | .answer a :: is => if s.canAccept then acceptNext s else answerNext c (s.setInputs is) a
    | .quiet :: is => acceptOrHold (s.setInputs is)
    | [] => acceptOrHold s
  else .next (s.refuse .illegalConfiguration)

/-- Whether an input is a reset. -/
def Input.isReset : Input → Bool
  | .reset _ => true
  | .answer _ => false
  | .quiet => false

/-- A frame given to the host so that the very next step accepts it: it is the next frame presented, the block is in IDLE
with nothing outstanding, and no reset comes first (DESIGN CHOICE, safe, notes/assumptions/3.md). -/
def State.present (s : State) (f : Frame) : State :=
  { s with blk := s.blk.stopIn .idle, host := f :: s.host, inputs := s.inputs.dropWhile Input.isReset }

end Sys2Proof.Machine
end

