-- ==== Sys2Proof/Machine/Step.lean ====
section
/-! DEFINITION. The machine's step, and where a command is put so that the next step runs it. -/

namespace Sys2Proof.Machine

/-- One step of the PVE system, with the open functions `MAC` and `SlotOut` of R12. -/
def step (s : State) : Host.Outcome State Fault Refusal := systemStep Config.collaborators s

/-- The state with the frame of a table word presented by the host (the PVE fetches no instructions, R85). -/
def State.withFetchWord (s : State) (nbits w : Nat) : State := s.present (tableFrame nbits w)

end Sys2Proof.Machine
end

