-- ==== Sys2Proof/Machine/Assembler.lean ====
section
/-! DEFINITION. The textual syntax of a command and its assembly to a frame (spec/30_encoding.md R111). Where
blanks may stand is DEDUCED, safe (notes/assumptions/25.md). -/

namespace Sys2Proof.Machine

/-- The value of a hexadecimal digit, either case. -/
def hexVal (c : Char) : Option Nat :=
  let n := c.toNat
  if 48 ≤ n ∧ n ≤ 57 then some (n - 48)
  else if 65 ≤ n ∧ n ≤ 70 then some (n - 55)
  else if 97 ≤ n ∧ n ≤ 102 then some (n - 87)
  else none

/-- Whether a character is a hexadecimal digit. -/
def isHexDigit (c : Char) : Bool := (hexVal c).isSome

/-- The bytes of a run of hexadecimal digits, two per byte, first byte first; `none` for an odd number of digits. -/
def hexBytes : List Char → Option (List Byte)
  | [] => some []
  | [_] => none
  | h :: l :: cs =>
    match hexVal h, hexVal l, hexBytes cs with
    | some x, some y, some bs => some (BitVec.ofNat 8 (16 * x + y) :: bs)
    | _, _, _ => none

/-- Whether a character separates words. -/
def isBlank (c : Char) : Bool := c == ' ' || c == '\t'

/-- The text after the literal `lit`, if it begins with it. The mnemonics and the operand names are read in the case in which
R111 writes them: DESIGN CHOICE, safe (notes/assumptions/29.md). -/
def afterLit : List Char → List Char → Option (List Char)
  | [], cs => some cs
  | _ :: _, [] => none
  | l :: ls, c :: cs => if l = c then afterLit ls cs else none

/-- The operand `<name>=<hex>`: its bytes and the text after it. -/
def hexOperand (name cs : List Char) : Option (List Byte × List Char) :=
  match afterLit (name ++ ['=']) cs with
  | none => none
  | some cs => (hexBytes (cs.takeWhile isHexDigit)).map fun bs => (bs, cs.dropWhile isHexDigit)

/-- The operand `pin=<hex>`; a PIN of fewer than 4 or more than 8 bytes is rejected. -/
def pinOperand (cs : List Char) : Option (List Byte × List Char) :=
  match hexOperand ['p', 'i', 'n'] cs with
  | some (pin, rest) => if pinMin ≤ pin.length ∧ pin.length ≤ pinMax then some (pin, rest) else none
  | none => none

/-- The text after a mnemonic and at least one blank, if the line begins with that mnemonic. -/
def afterMnemonic (name cs : List Char) : Option (List Char) :=
  match afterLit name cs with
  | some (c :: cs) => if isBlank c then some (cs.dropWhile isBlank) else none
  | _ => none

/-- Whether only blanks are left. -/
def onlyBlanks (cs : List Char) : Bool := cs.all isBlank

/-- `VERIFY pin=<hex>`. -/
def asmVerify (cs : List Char) : Option Frame :=
  match (afterMnemonic ['V', 'E', 'R', 'I', 'F', 'Y'] cs).bind pinOperand with
  | some (pin, rest) =>
    if onlyBlanks rest then some (encode (.verify (some (BitVec.ofNat 8 pin.length)) pin [])) else none
  | none => none

/-- `SETUP pin=<hex>, secret=<hex64>`. -/
def asmSetup (cs : List Char) : Option Frame :=
  match (afterMnemonic ['S', 'E', 'T', 'U', 'P'] cs).bind pinOperand with
  | none => none
  | some (pin, rest) =>
    match afterLit [','] (rest.dropWhile isBlank) with
    | none => none
    | some rest =>
      match hexOperand ['s', 'e', 'c', 'r', 'e', 't'] (rest.dropWhile isBlank) with
      | none => none
      | some (sec, rest) =>
        if sec.length = secretLen ∧ onlyBlanks rest = true then
          some (encode (.setup (some (BitVec.ofNat 8 pin.length)) pin sec))
        else none

/-- `FRAME <hex>`: the bytes verbatim, with blanks between them if one likes (spec/95_test_vectors.md W2, P4). DESIGN CHOICE,
safe: any even number of digits, none included, which is the empty frame (notes/assumptions/30.md). -/
def asmFrame (cs : List Char) : Option Frame :=
  (afterMnemonic ['F', 'R', 'A', 'M', 'E'] cs).bind fun cs => hexBytes (cs.filter fun c => !isBlank c)

/-- Assemble one line; the text from `;` on is a comment. `none` where the assembler rejects the line. -/
def assemble (line : List Char) : Option Frame :=
  let cs := (line.takeWhile (· ≠ ';')).dropWhile isBlank
  (asmSetup cs).orElse fun _ => (asmVerify cs).orElse fun _ => asmFrame cs

/-- The hexadecimal digit of a value below 16. -/
def hexDigit (n : Nat) : Char := Char.ofNat (if n < 10 then 48 + n else 55 + n)

/-- The hexadecimal digits of a byte sequence. -/
def hexText : List Byte → List Char
  | [] => []
  | b :: bs => hexDigit (b.toNat / 16) :: hexDigit (b.toNat % 16) :: hexText bs

/-- The line that spells a valid command. -/
def textOf : Instr → List Char
  | .setup _ pin sec =>
    ['S', 'E', 'T', 'U', 'P', ' ', 'p', 'i', 'n', '='] ++ hexText pin
      ++ [',', ' ', 's', 'e', 'c', 'r', 'e', 't', '='] ++ hexText sec
  | .verify _ pin _ => ['V', 'E', 'R', 'I', 'F', 'Y', ' ', 'p', 'i', 'n', '='] ++ hexText pin

end Sys2Proof.Machine
end

