-- ==== Sys2Proof/Machine/Views.lean ====
section
/-! DEFINITION. What is seen of the state from outside: the host's view, the response frame, and the protocol-level view
of the slots. No rule reads any of these; nothing here changes the state. -/

namespace Sys2Proof.Machine

/-- `BUSY`: equal to `PHASE` ≠ IDLE, no storage of its own (R39). -/
def Block.busy (b : Block) : Bool := decide (b.phase ≠ .idle)

/-- The 33-byte response `RSP_STATUS ++ RSP_KEY` (R107). -/
def Rsp.frame (r : Rsp) : List Byte := r.status :: r.key.toList

/-- All that the host can read (R43). The response's contents mean nothing while `RSP_VALID` = 0 (R37). -/
structure HostView where
  busy : Bool
  faultCode : FaultCode
  rsp : Rsp
  deriving DecidableEq, Repr

/-- The host's view of a system (R43, R316). -/
def State.hostView (s : State) : HostView := { busy := s.blk.busy, faultCode := s.blk.faultCode, rsp := s.blk.rsp }

/-- The protocol-level state of a slot (R46). -/
inductive SlotView where
  | fresh
  | committed
  | destroyed
  deriving DecidableEq, Repr

/-- The view of a slot relative to the blinding value `u` (R46). -/
def SlotState.view (u : Bytes32) : SlotState → SlotView
  | .fresh => .fresh
  | .keyed x => if x = u then .committed else .destroyed

/-- The record in the store is well-formed (R47). -/
def State.recordWellFormed (s : State) : Prop :=
  ∃ b, s.store = .data b ∧ WellFormedRecord s.cfg.rounds b

end Sys2Proof.Machine
end

