-- ==== Sys2Proof/Safety.lean ====
section
/-! DEFINITION. What claims are stated in: the invariant of the system, the durability of the attempt counter, runs of
several steps, and the premises the spec names for claims. -/

namespace Sys2Proof.Machine

/-- A PIN is held in `PIN` and `PINLEN`: its length is legal and the padding is zero (R34). -/
abbrev Regs.pinHeld (r : Regs) : Prop :=
  pinMin ≤ r.pinlen.toNat ∧ r.pinlen.toNat ≤ pinMax ∧
    r.pin.toList.drop r.pinlen.toNat = List.replicate (8 - r.pinlen.toNat) 0

/-- Where the counter and the loop index stand in each phase (R33, R145, R187, R192, R266, R274, R275). -/
abbrev countersFit (rounds : Nat) (r : Regs) (p : Phase) : Prop :=
  match p with
  | .idle | .fault | .sErase | .vRead => True
  | .sMacTag | .sMacU | .sMacV => r.record.cnt.toNat = rounds
  | .sSlotA | .sSlotB | .sSlotC | .sMacK => r.record.cnt.toNat = rounds ∧ r.idx.toNat < rounds
  | .sWrite | .sMacFinal => r.record.cnt.toNat = rounds
  | .vEraseDec | .vWriteDec | .vMacV | .vSlot | .vMacK | .vMacT | .vMacU => r.record.cnt.toNat < rounds
  | .vRecommit => r.record.cnt.toNat ≤ r.idx.toNat ∧ r.idx.toNat + 2 ≤ rounds
  | .vEraseRst | .vWriteRst | .vMacFinal => r.record.cnt.toNat = rounds

/-- Whether a phase is neither IDLE nor FAULT: a command is running. -/
def Phase.running (p : Phase) : Bool := decide (p ≠ .idle ∧ p ≠ .fault)

/-- A unit's content is within `STORE_UNIT_SIZE` (R44). -/
abbrev StoreUnit.fits (cfg : Cfg) (u : StoreUnit) : Prop :=
  match u with
  | .erased => True
  | .data b => b.length ≤ cfg.storeUnitSize

/-- The invariant of the block. -/
structure Block.Inv (cfg : Cfg) (b : Block) : Prop where
  /-- `REC.ENC` has `ROUNDS` registers (R36) -/
  encCount : b.regs.record.enc.length = cfg.rounds
  /-- `REC.CNT` is in 0..`ROUNDS` (R36) -/
  cntRange : b.regs.record.cnt.toNat ≤ cfg.rounds
  /-- `IDX` is in 0..`ROUNDS` (R33, R275) -/
  idxRange : b.regs.idx.toNat ≤ cfg.rounds
  /-- the counter and the index stand where the phase needs them -/
  counters : countersFit cfg.rounds b.regs b.phase
  /-- `OUTSTANDING` is the transaction the phase names (R40) -/
  waits : b.outstanding = phaseRequest cfg b.regs b.phase
  /-- while a command runs, its PIN is held (R34) -/
  pin : b.phase.running = true → b.regs.pinHeld
  /-- in IDLE and FAULT every working register is zero (R48, R307) -/
  quiet : b.phase.running = false → b.regs = Regs.zero cfg.rounds
  /-- the fault code is set exactly in phase FAULT (R38, R307) -/
  faultIff : b.faultCode ≠ .none ↔ b.phase = .fault
  /-- a response is valid only in IDLE (R317, R307, R363) -/
  validIdle : b.rsp.valid = true → b.phase = .idle
  /-- `RSP_STATUS` holds a code of R107 -/
  statusCode : b.rsp.status.toNat ≤ 6
  /-- without success there is no key (R108) -/
  noKey : b.rsp.status ≠ Status.code .ok → b.rsp.status ≠ Status.code .authSuccess → b.rsp.key = zero32

/-- The invariant of a PVE system. It holds at every power-on with a legal configuration and a store in canonical form that
fits, and every step keeps it, whatever the host, the collaborators and the power supply do. -/
structure State.Inv (s : State) : Prop where
  /-- the configuration is legal (R31) -/
  legal : s.cfg.legal
  /-- the store is in canonical form -/
  memWf : s.env.mem.wf
  /-- the record's unit holds at most `STORE_UNIT_SIZE` bytes (R44) -/
  unitFits : s.store.fits s.cfg
  /-- the slot bank has `ROUNDS` slots (R45) -/
  slotCount : s.env.slots.length = s.cfg.rounds
  /-- the block's own invariant -/
  block : s.blk.Inv s.cfg

/-- The attempt is durable: from the moment the decremented record's write has answered `Ok` until the counter is reset,
the store holds exactly the record of the register `REC`, the decremented counter with it; in V_ERASE_RST, where `REC.CNT`
is reset already, it still holds a decremented one; and before either final key is derived the store holds the record the
command wrote (R81, R185, R193, R352). -/
abbrev State.Durable (s : State) : Prop :=
  match s.blk.phase with
  | .vMacV | .vSlot | .vMacK | .vMacT | .vMacU | .vRecommit | .sMacFinal | .vMacFinal =>
    s.store = .data (encodeRecord s.blk.regs.record)
  | .vEraseRst =>
    ∃ c : Byte, c.toNat < s.cfg.rounds ∧ s.store = .data (encodeRecord { s.blk.regs.record with cnt := c })
  | _ => True

/-- What the slot operations of the running command have left (R146 to R148, R187, R190, R192): in the SETUP loop every slot
below `IDX` is `Keyed(U)`, and slot `IDX` as far as the iteration got; after VERIFY's slot operation slot `REC.CNT` is
`Keyed(V)`, until the re-commit sequencer has keyed the slots from `REC.CNT` up with `U`. -/
abbrev State.SlotsTracked (s : State) : Prop :=
  let r := s.blk.regs
  match s.blk.phase with
  | .sSlotA => ∀ j < r.idx.toNat, s.env.slots[j]? = some (.keyed r.u)
  | .sSlotB => ∀ j ≤ r.idx.toNat, s.env.slots[j]? = some (.keyed r.u)
  | .sSlotC =>
    (∀ j < r.idx.toNat, s.env.slots[j]? = some (.keyed r.u)) ∧ s.env.slots[r.idx.toNat]? = some (.keyed r.v)
  | .sMacK => ∀ j ≤ r.idx.toNat, s.env.slots[j]? = some (.keyed r.u)
  | .sWrite | .sMacFinal => ∀ j < s.cfg.rounds, s.env.slots[j]? = some (.keyed r.u)
  | .vMacK | .vMacT | .vMacU => s.env.slots[r.record.cnt.toNat]? = some (.keyed r.v)
  | .vRecommit => ∀ j < r.idx.toNat, r.record.cnt.toNat ≤ j → s.env.slots[j]? = some (.keyed r.u)
  | _ => True

/-- The premise of claims about a run: no fault and no refusal mark (R307, R308). -/
abbrev State.Clean (s : State) : Prop := s.blk.faultCode = .none ∧ s.refusal = none

/-- No reset or power loss is the next thing to happen. -/
def State.noReset (s : State) : Bool :=
  match s.inputs with
  | .reset _ :: _ => false
  | _ => true

/-- The environment answers `Ok` to the next `n` transactions ("Env all-Ok", spec/95_test_vectors.md section 3). -/
def allOk (n : Nat) : List Input := List.replicate n (.answer .ok)

/-- The next step is an ACCEPT step with the frame `f`: the block is IDLE, the host presents `f`, nothing is refused and no
reset comes first (R317, R306). -/
structure State.Presents (s : State) (f : Frame) (fs : List Frame) : Prop where
  unrefused : s.refusal = none
  legal : s.cfg.legal
  noReset : s.noReset = true
  idle : s.blk.phase = .idle
  next : s.host = f :: fs

/-- The next step is a RESPONSE step: a command is running in a system that meets the invariant, and the environment's next
draw is `a` (R260). -/
structure State.Awaits (s : State) (a : Answer) (is : List Input) : Prop where
  unrefused : s.refusal = none
  inv : s.Inv
  running : s.blk.phase.running = true
  next : s.inputs = .answer a :: is

/-- A run of one command starts: the system meets the invariant, is IDLE and not refused, the host presents `f`, and the
environment answers `Ok` to the next `n` transactions. -/
structure State.StartsAllOk (s : State) (f : Frame) (fs : List Frame) (n : Nat) (is : List Input) : Prop where
  unrefused : s.refusal = none
  inv : s.Inv
  idle : s.blk.phase = .idle
  next : s.host = f :: fs
  answers : s.inputs = allOk n ++ is

/-- The status a failed transaction of a request's port ends a command with (R301). -/
def failureStatus : Request → Status
  | .mac _ _ => .cryptoError
  | .slot _ _ => .hardwareError
  | .read _ _ => .storageError
  | .erase _ => .storageError
  | .write _ _ => .storageError

/-- The most transactions a command makes (R362). -/
def transactionBound (cfg : Cfg) : Instr → Nat
  | .setup _ _ _ => 4 * cfg.rounds + 6
  | .verify _ _ _ => cfg.rounds + 10

/-- Whether a draw answers a request: `AlreadyErased` answers an ERASE only and a whole unit a READ only (R110), every other
draw any request. -/
def Answer.answers (a : Answer) (req : Request) : Bool :=
  match a, req with
  | .ok, _ => true
  | .fail _, _ => true
  | .alreadyErased, .erase _ => true
  | .alreadyErased, .mac _ _ => false
  | .alreadyErased, .slot _ _ => false
  | .alreadyErased, .read _ _ => false
  | .alreadyErased, .write _ _ => false
  | .wholeUnit, .read _ _ => true
  | .wholeUnit, .mac _ _ => false
  | .wholeUnit, .slot _ _ => false
  | .wholeUnit, .erase _ => false
  | .wholeUnit, .write _ _ => false

/-- Whether an input is a draw that answers every request. -/
def Input.surelyAnswers (x : Input) : Bool :=
  match x with
  | .answer .ok => true
  | .answer (.fail _) => true
  | .answer .alreadyErased => false
  | .answer .wholeUnit => false
  | .reset _ => false
  | .quiet => false

/-- Whether the next input answers the outstanding transaction. -/
def State.answeredNext (s : State) : Bool :=
  match s.inputs, s.blk.outstanding with
  | .answer a :: _, some req => a.answers req
  | _, _ => false

/-- `n` steps of the machine, stopping where a step does not answer a next state. -/
def runSteps : Nat → State → Host.Outcome State Fault Refusal
  | 0, s => .next s
  | n + 1, s =>
    match step s with
    | .next t => runSteps n t
    | .fault f => .fault f
    | .refused r => .refused r

/-- How many transactions are answered in `n` steps (R362). -/
def answeredIn : Nat → State → Nat
  | 0, _ => 0
  | n + 1, s =>
    (if s.answeredNext then 1 else 0) +
      match step s with
      | .next t => answeredIn n t
      | .fault _ => 0
      | .refused _ => 0

/-- The block after a command that completed with this status and key (R273), in a system with this configuration. -/
def Block.completed (cfg : Cfg) (fc : FaultCode) (st : Status) (key : Bytes32) : Block :=
  { phase := .idle, outstanding := none, regs := Regs.zero cfg.rounds,
    rsp := { valid := true, status := st.code, key := key }, faultCode := fc }

end Sys2Proof.Machine
end

