-- ==== Sys2Proof/Certificates/Slice0/Obligations.lean ====
section
/-! DEFINITION. The statements for the provers, each a Prop. The docstring of each names the rules of spec/ it rests on. A
statement about a step holds for every draw of the environment, and `MAC` and `SlotOut` are the opaque functions of R12.
The premise that a run carries no refusal mark is R308's (notes/assumptions/13.md), the label byte 0x32 is R10's
(notes/assumptions/15.md), and that the draw `ok` returns the first bytes of a unit longer than the record is R74's, beside
the draw `wholeUnit` (notes/assumptions/28.md). -/

open Sys2Proof Sys2Proof.Machine

/-! ## Encoding -/

/-- R101, R102, R105: frames written out byte by byte from the field table, and what they decode to (the vectors V-ENC-1,
V-ENC-5, V-ENC-8, V-ENC-9, V-ENC-12 and V-ENC-14 of spec/95_test_vectors.md). For the invalid frames V-ENC-5, V-ENC-8 and
V-ENC-9 the spec gives PARAM_ERROR alone: that they decode to a command with its fields as they came is the model's choice
(notes/assumptions/18.md). -/
def Obligations.SampleFramesDecode : Prop :=
  decode [0x02, 0x04, 0x01, 0x02, 0x03, 0x04] = .ok (.verify (some 4) [1, 2, 3, 4] []) ∧
  decode [0x02, 0x04, 0x01, 0x02, 0x03, 0x04, 0x05] = .ok (.verify (some 4) [1, 2, 3, 4] [5]) ∧
  decode ([0x01, 0x04, 0x01, 0x02, 0x03, 0x04] ++ List.replicate 32 0x5A) =
    .ok (.setup (some 4) [1, 2, 3, 4] (List.replicate 32 0x5A)) ∧
  decode [0x01, 0x04, 0x01, 0x02, 0x03, 0x04] = .ok (.setup (some 4) [1, 2, 3, 4] []) ∧
  decode [0x01] = .ok (.setup none [] []) ∧
  decode [] = .error .emptyFrame ∧
  decode [0x03, 0x04, 0x01, 0x02, 0x03, 0x04] = .error (.reservedOpcode 0x03)

/-- R101 to R103: every well-formed command, valid or not, comes back from its frame with every field at every value. That
an invalid frame is held as a command is the model's choice (notes/assumptions/18.md). -/
def Obligations.DecodeOfEncode : Prop :=
  ∀ i : Instr, i.WellFormed → decode (encode i) = .ok i

/-- R101, R102: a frame that decodes is the frame of the command it decodes to, and that command is well-formed
(notes/assumptions/18.md). -/
def Obligations.EncodeOfDecode : Prop :=
  ∀ (f : Frame) (i : Instr), decode f = .ok i → encode i = f ∧ i.WellFormed

/-- R105: exactly the empty frame and the frames whose `OPC` is not 0x01 or 0x02 are reserved. -/
def Obligations.ReservedFramesAreTheTwoKinds : Prop :=
  ∀ f : Frame, (∃ e, decode f = .error e) ↔ f = [] ∨ ∃ opc rest, f = opc :: rest ∧ opc ≠ 0x01 ∧ opc ≠ 0x02

/-- R109, R104: a frame of a known opcode whose PIN length is legal is valid exactly if its length is the one that its first
two bytes give. -/
def Obligations.FrameLengthFromTwoBytes : Prop :=
  (∀ (f : Frame) (n : Byte) (pin sec : List Byte), decode f = .ok (.setup (some n) pin sec) →
    4 ≤ n.toNat → n.toNat ≤ 8 →
      frameLength f = some (34 + n.toNat) ∧ (validSetup (some n) pin sec = true ↔ frameLength f = some f.length)) ∧
  (∀ (f : Frame) (n : Byte) (pin excess : List Byte), decode f = .ok (.verify (some n) pin excess) →
    4 ≤ n.toNat → n.toNat ≤ 8 →
      frameLength f = some (2 + n.toNat) ∧ (validVerify (some n) pin excess = true ↔ frameLength f = some f.length))

/-- R104: when a frame of a known opcode is valid, and that an invalid one completes with PARAM_ERROR and makes no
transaction. -/
def Obligations.FrameValidity : Prop :=
  (∀ (f : Frame) (plen : Option Byte) (pin sec : List Byte), decode f = .ok (.setup plen pin sec) →
    (validSetup plen pin sec = true ↔
      2 ≤ f.length ∧ 4 ≤ (f.getD 1 0).toNat ∧ (f.getD 1 0).toNat ≤ 8 ∧ f.length = 34 + (f.getD 1 0).toNat)) ∧
  (∀ (f : Frame) (plen : Option Byte) (pin excess : List Byte), decode f = .ok (.verify plen pin excess) →
    (validVerify plen pin excess = true ↔
      2 ≤ f.length ∧ 4 ≤ (f.getD 1 0).toNat ∧ (f.getD 1 0).toNat ≤ 8 ∧ f.length = 2 + (f.getD 1 0).toNat)) ∧
  (∀ (s : State) (plen : Option Byte) (pin tail : List Byte), s.Inv → s.blk.phase = .idle →
    (validSetup plen pin tail = false → exec (.setup plen pin tail) s =
      .next { s with blk := Block.completed s.cfg .none .paramError zero32 }) ∧
    (validVerify plen pin tail = false → exec (.verify plen pin tail) s =
      .next { s with blk := Block.completed s.cfg .none .paramError zero32 }))

/-- R103: where the operands of a valid frame stand in the registers after the ACCEPT step. -/
def Obligations.OperandsAssembledFromFrame : Prop :=
  ∀ (s : State) (f : Frame), s.blk.phase = .idle →
    (∀ plen pin sec, decode f = .ok (.setup plen pin sec) → validSetup plen pin sec = true →
      ∃ t, exec (.setup plen pin sec) s = .next t ∧ t.blk.regs.pinlen = f.getD 1 0 ∧
        (∀ j (h : j < 8), t.blk.regs.pin[j] =
          if j < t.blk.regs.pinlen.toNat then f.getD (2 + j) 0 else 0x00) ∧
        ∀ j (h : j < 32), t.blk.regs.s[j] = f.getD (2 + t.blk.regs.pinlen.toNat + j) 0) ∧
    (∀ plen pin excess, decode f = .ok (.verify plen pin excess) → validVerify plen pin excess = true →
      ∃ t, exec (.verify plen pin excess) s = .next t ∧ t.blk.regs.pinlen = f.getD 1 0 ∧
        ∀ j (h : j < 8), t.blk.regs.pin[j] =
          if j < t.blk.regs.pinlen.toNat then f.getD (2 + j) 0 else 0x00)

/-- R111: the line that spells a valid command assembles to its frame. -/
def Obligations.AssemblerSpellsFrames : Prop :=
  (∀ (n : Byte) (pin sec : List Byte), validSetup (some n) pin sec = true →
    assemble (textOf (.setup (some n) pin sec)) = some (encode (.setup (some n) pin sec))) ∧
  (∀ (n : Byte) (pin : List Byte), validVerify (some n) pin [] = true →
    assemble (textOf (.verify (some n) pin [])) = some (encode (.verify (some n) pin [])))

/-! ## Accepting a command -/

/-- R141 (its lines up to the first transaction), R260, R317: SETUP's ACCEPT step completes in every IDLE state, for every
valid frame. That `RSP_STATUS` and `RSP_KEY` stay meanwhile is the model's choice (notes/assumptions/20.md). -/
def Obligations.SetupAccepted : Prop :=
  ∀ (s : State) (n : Byte) (pin sec : List Byte), s.blk.phase = .idle → validSetup (some n) pin sec = true →
    exec (.setup (some n) pin sec) s =
      .next { s with
        blk := { phase := .sErase, outstanding := some (.erase s.cfg.recordAddr),
                 regs := { s.blk.regs with pinlen := n, pin := pinPadded pin, s := bytes32 sec },
                 rsp := { s.blk.rsp with valid := false }, faultCode := s.blk.faultCode } }

/-- R181 (its lines up to the first transaction), R260, R317: VERIFY's ACCEPT step completes in every IDLE state, for every
valid frame. That `RSP_STATUS` and `RSP_KEY` stay meanwhile is the model's choice (notes/assumptions/20.md). -/
def Obligations.VerifyAccepted : Prop :=
  ∀ (s : State) (n : Byte) (pin : List Byte), s.blk.phase = .idle → validVerify (some n) pin [] = true →
    exec (.verify (some n) pin []) s =
      .next { s with
        blk := { phase := .vRead, outstanding := some (.read s.cfg.recordAddr s.cfg.recSize),
                 regs := { s.blk.regs with pinlen := n, pin := pinPadded pin },
                 rsp := { s.blk.rsp with valid := false }, faultCode := s.blk.faultCode } }

/-- The frame of SETUP and VERIFY as commands (R141, R181, R317): the ACCEPT step writes no store byte, no slot and no
`FAULT_CODE`, takes nothing from the host or the environment by itself, and, unless it completes with PARAM_ERROR, changes
no register but `PIN`, `PINLEN`, `S` (SETUP only), `PHASE`, `OUTSTANDING` and `RSP_VALID` (notes/assumptions/17.md and
20.md). -/
def Obligations.AcceptFrame : Prop :=
  ∀ (i : Instr) (s t : State), exec i s = .next t →
    t.cfg = s.cfg ∧ t.env = s.env ∧ (∀ a j, t.env.mem.byte a j = s.env.mem.byte a j) ∧
    t.host = s.host ∧ t.inputs = s.inputs ∧ t.refusal = s.refusal ∧ t.blk.faultCode = s.blk.faultCode ∧
    (s.blk.phase ≠ .idle → t = s) ∧
    (s.blk.phase = .idle → t.blk.phase ≠ .idle →
      t.blk.regs.idx = s.blk.regs.idx ∧ t.blk.regs.u = s.blk.regs.u ∧ t.blk.regs.v = s.blk.regs.v ∧
      t.blk.regs.w = s.blk.regs.w ∧ t.blk.regs.k = s.blk.regs.k ∧ t.blk.regs.t = s.blk.regs.t ∧
      t.blk.regs.fk = s.blk.regs.fk ∧ t.blk.regs.record = s.blk.regs.record ∧
      t.blk.rsp.status = s.blk.rsp.status ∧ t.blk.rsp.key = s.blk.rsp.key ∧
      (∀ plen pin excess, i = .verify plen pin excess → t.blk.regs.s = s.blk.regs.s))

/-- R317: a block that is not IDLE accepts nothing: the frame stays with the host and no error is reported; and an
acceptance takes the frame and clears `RSP_VALID` until the command completes. That `exec` outside IDLE leaves the state as
it is, is the model's choice (notes/assumptions/17.md). -/
def Obligations.AcceptedOnlyInIdle : Prop :=
  (∀ (s t : State), step s = .next t → s.blk.phase ≠ .idle → t.host = s.host) ∧
  (∀ (i : Instr) (s : State), s.blk.phase ≠ .idle → exec i s = .next s) ∧
  (∀ (s t : State) (f : Frame) (fs : List Frame) (i : Instr), s.Presents f fs → decode f = .ok i → step s = .next t →
    t.host = fs ∧ (t.blk.rsp.valid = false ∧ t.blk.phase.running = true ∨
      t.blk.rsp = { valid := true, status := Status.code .paramError, key := zero32 } ∧ t.blk.phase = .idle))

/-- R308: a reserved frame and an illegal configuration are refused, and nothing else is; a refusal sets the mark and changes
neither the block nor ENV; and the mark stays for the rest of the run. That the run goes on, and holds for ever under an
illegal configuration, is the model's choice (notes/assumptions/13.md and 14.md). -/
def Obligations.RefusalOnlyMarks : Prop :=
  (∀ (s : State) (f : Frame) (fs : List Frame) (e : DecodeError), s.Presents f fs → decode f = .error e →
    ∃ t, step s = .next t ∧ t.refusal = some (refusalOf e) ∧ t.blk = s.blk ∧ t.env = s.env ∧ t.cfg = s.cfg) ∧
  (∀ s : State, s.refusal = none → ¬ s.cfg.legal →
    step s = .next { s with refusal := some .illegalConfiguration }) ∧
  (∀ s t : State, s.refusal = none → step s = .next t → t.refusal ≠ none →
    ¬ s.cfg.legal ∨ ∃ f fs e, s.host = f :: fs ∧ decode f = .error e) ∧
  (∀ (s t : State) (r : Refusal), s.refusal = some r → step s = .next t → t.refusal = some r) ∧
  (∀ (s : State) (r : Refusal), step s ≠ .refused r)

/-! ## What a step is -/

/-- R260 (ACCEPT step), R317: when the frame the host presents decodes to `i`, the step is `exec` of `i` on the state with
that frame taken (and the model's mark of a quiet step, if one comes first, used up: notes/assumptions/6.md). -/
def Obligations.StepRunsDecodedCommand : Prop :=
  ∀ (s : State) (f : Frame) (fs : List Frame) (i : Instr), s.Presents f fs → decode f = .ok i →
    step s = exec i { s with host := fs, inputs := afterQuiet s.inputs }

/-- R260 (RESPONSE step): when the environment answers the outstanding request, the step is the request's effect on ENV and
the block's handling of the response. -/
def Obligations.StepHandlesResponse : Prop :=
  ∀ (s : State) (a : Answer) (is : List Input) (req : Request) (r : Response) (e : Env) (b : Block), s.Awaits a is →
    s.blk.outstanding = some req → envAnswer Config.collaborators s.cfg s.env req a = .answered r e →
    resume s.cfg s.blk r = .ok b → step s = .next { s with inputs := is, env := e, blk := b }

/-- R260, R362: between steps the block holds: while the environment is quiet, and for ever if nothing comes. -/
def Obligations.HoldsWithoutInput : Prop :=
  ∀ s : State, s.refusal = none → s.cfg.legal → (s.blk.phase ≠ .idle ∨ s.host = []) →
    (s.inputs = [] → step s = .next s) ∧
    (∀ is, s.inputs = .quiet :: is → step s = .next { s with inputs := is })

/-- R350: every register after a reset, whatever the state before; CFG, the store and the slots stay (with a transaction
outstanding, R351 says what becomes of its target). -/
def Obligations.ResetSetsEveryRegister : Prop :=
  ∀ (s : State) (left : Residue) (is : List Input), s.refusal = none → s.cfg.legal → s.inputs = .reset left :: is →
    ∃ t, step s = .next t ∧ t.blk.phase = .idle ∧ t.blk.outstanding = none ∧
      t.blk.regs.idx = 0 ∧ t.blk.regs.pin = Vector.replicate 8 0 ∧ t.blk.regs.pinlen = 0 ∧
      t.blk.regs.s = zero32 ∧ t.blk.regs.u = zero32 ∧ t.blk.regs.v = zero32 ∧ t.blk.regs.w = zero32 ∧
      t.blk.regs.k = zero32 ∧ t.blk.regs.t = zero32 ∧ t.blk.regs.fk = zero32 ∧
      t.blk.regs.record.cnt = 0 ∧ t.blk.regs.record.enc = List.replicate s.cfg.rounds zero32 ∧
      t.blk.regs.record.tag = zero32 ∧
      t.blk.rsp = { valid := false, status := 0x00, key := zero32 } ∧ t.blk.faultCode = .none ∧
      t.cfg = s.cfg ∧ (s.blk.outstanding = none → t.env = s.env)

/-- R351: the effect of a reset or power loss on ENV, for each outstanding request: what it can be at most, and that each
of the listed outcomes can be. -/
def Obligations.PowerLossDraws : Prop :=
  ∀ (s : State) (is : List Input), s.refusal = none → s.cfg.legal →
    (∀ left, s.inputs = .reset left :: is → ∃ t, step s = .next t ∧ t.blk = Block.reset s.cfg.rounds ∧
      (∀ key msg, s.blk.outstanding = some (.mac key msg) → t.env = s.env) ∧
      (∀ a n, s.blk.outstanding = some (.read a n) → t.env = s.env) ∧
      (∀ a, s.blk.outstanding = some (.erase a) → t.env.slots = s.env.slots ∧
        (t.env.mem.unit a = s.env.mem.unit a ∨ t.env.mem.unit a = .erased) ∧
        ∀ a', a' ≠ a → t.env.mem.unit a' = s.env.mem.unit a') ∧
      (∀ a b, s.blk.outstanding = some (.write a b) → t.env.slots = s.env.slots ∧
        ∀ a', a' ≠ a → t.env.mem.unit a' = s.env.mem.unit a') ∧
      (∀ i x, s.blk.outstanding = some (.slot i x) → t.env.mem = s.env.mem ∧
        ∀ j, j ≠ i.toNat → t.env.slots[j]? = s.env.slots[j]?)) ∧
    (∀ a, s.blk.outstanding = some (.erase a) → ∀ u, u = s.env.mem.unit a ∨ u = .erased →
      ∃ left t, step { s with inputs := .reset left :: is } = .next t ∧ t.env.mem.unit a = u) ∧
    (∀ a b, s.blk.outstanding = some (.write a b) → ∀ u : StoreUnit, u.fits s.cfg →
      ∃ left t, step { s with inputs := .reset left :: is } = .next t ∧ t.env.mem.unit a = u) ∧
    (∀ i x, s.blk.outstanding = some (.slot i x) → i.toNat < s.env.slots.length → ∀ st : SlotState,
      ∃ left t, step { s with inputs := .reset left :: is } = .next t ∧ t.env.slots[i.toNat]? = some st)

/-! ## Datapath and codec -/

/-- R270: the lanes of `XOR32` and its three laws. -/
def Obligations.Xor32LanesAndLaws : Prop :=
  (∀ (a b : Bytes32) (j : Nat) (h : j < 32), (xor32 a b)[j] = a[j] ^^^ b[j]) ∧
  (∀ a k : Bytes32, xor32 (xor32 a k) k = a) ∧
  (∀ a : Bytes32, xor32 a zero32 = a) ∧ (∀ a : Bytes32, xor32 a a = zero32)

/-- R271: `EQ32` is true exactly when all 32 lanes are equal. -/
def Obligations.Eq32ExactlyWhenAllLanesEqual : Prop :=
  ∀ a b : Bytes32, eq32 a b = true ↔ ∀ j (h : j < 32), a[j] = b[j]

/-- R232, R233: where each byte of a record stands, and that there are no others. -/
def Obligations.RecordLayout : Prop :=
  ∀ (rounds : Nat) (r : Record), r.enc.length = rounds →
    (encodeRecord r).length = 33 + 32 * rounds ∧
    (encodeRecord r)[0]? = some r.cnt ∧
    (∀ i (hi : i < r.enc.length) j (hj : j < 32), (encodeRecord r)[1 + 32 * i + j]? = some (r.enc[i])[j]) ∧
    (∀ j (hj : j < 32), (encodeRecord r)[1 + 32 * rounds + j]? = some r.tag[j])

/-- R234: the two faults of DECODE, their order, and the register values it gives otherwise. -/
def Obligations.DecodeRecordByField : Prop :=
  ∀ (rounds : Nat) (b : List Byte),
    (b.length ≠ 33 + 32 * rounds → decodeRecord rounds b = .error .protocol) ∧
    (b.length = 33 + 32 * rounds → (b.getD 0 0).toNat > rounds → decodeRecord rounds b = .error .recordRange) ∧
    (b.length = 33 + 32 * rounds → (b.getD 0 0).toNat ≤ rounds →
      ∃ r, decodeRecord rounds b = .ok r ∧ r.cnt = b.getD 0 0 ∧ r.enc.length = rounds ∧
        (∀ i (hi : i < r.enc.length) j (hj : j < 32), (r.enc[i])[j] = b.getD (1 + 32 * i + j) 0) ∧
        ∀ j (hj : j < 32), r.tag[j] = b.getD (1 + 32 * rounds + j) 0)

/-- R235: the codec's round trips in both directions, and that ENCODE is injective. -/
def Obligations.RecordRoundTrip : Prop :=
  (∀ (rounds : Nat) (r : Record), r.enc.length = rounds → r.cnt.toNat ≤ rounds →
    decodeRecord rounds (encodeRecord r) = .ok r) ∧
  (∀ (rounds : Nat) (b : List Byte), b.length = 33 + 32 * rounds → (b.getD 0 0).toNat ≤ rounds →
    ∃ r, decodeRecord rounds b = .ok r ∧ encodeRecord r = b) ∧
  (∀ r r' : Record, r.enc.length = r'.enc.length → encodeRecord r = encodeRecord r' → r = r')

/-! ## The collaborators' contracts -/

/-- R262: the two answers of the MAC port, and that no state changes. -/
def Obligations.MacContract : Prop :=
  ∀ (cfg : Cfg) (e : Env) (key : Bytes32) (msg : List Byte),
    envAnswer Config.collaborators cfg e (.mac key msg) .ok = .answered (.macOk (Config.mac key msg)) e ∧
    (∀ left, envAnswer Config.collaborators cfg e (.mac key msg) (.fail left) = .answered .cryptoFail e) ∧
    (∀ a r e', envAnswer Config.collaborators cfg e (.mac key msg) a = .answered r e' →
      e' = e ∧ (r = .macOk (Config.mac key msg) ∨ r = .cryptoFail))

/-- R265: the output is that of the slot's state before the operation, and the slot is then keyed by the input; after
`HwFail` the slot is in any state; no other slot and no store unit changes. -/
def Obligations.SlotContract : Prop :=
  ∀ (cfg : Cfg) (e : Env) (i : Byte) (x : Bytes32), i.toNat < e.slots.length →
    (∃ st e', e.slots[i.toNat]? = some st ∧
      envAnswer Config.collaborators cfg e (.slot i x) .ok = .answered (.slotOk (Config.slotOut i st x)) e' ∧
      e'.slots[i.toNat]? = some (.keyed x) ∧ e'.mem = e.mem ∧
      ∀ j, j ≠ i.toNat → e'.slots[j]? = e.slots[j]?) ∧
    (∀ st : SlotState, ∃ left e', envAnswer Config.collaborators cfg e (.slot i x) (.fail left) = .answered .hwFail e' ∧
      e'.slots[i.toNat]? = some st) ∧
    (∀ left r e', envAnswer Config.collaborators cfg e (.slot i x) (.fail left) = .answered r e' →
      r = .hwFail ∧ e'.mem = e.mem ∧ ∀ j, j ≠ i.toNat → e'.slots[j]? = e.slots[j]?)

/-- R74: what a READ answers for each content of the unit, with the draws R74 names, and that no draw makes it change
ENV. -/
def Obligations.ReadContract : Prop :=
  ∀ (cfg : Cfg) (e : Env) (a n : Nat),
    (∀ b, e.mem.unit a = .data b → n ≤ b.length →
      envAnswer Config.collaborators cfg e (.read a n) .ok = .answered (.readOk (b.take n)) e) ∧
    (∀ b, e.mem.unit a = .data b → b.length < n →
      envAnswer Config.collaborators cfg e (.read a n) .ok = .answered (.readOk b) e) ∧
    (e.mem.unit a = .erased → envAnswer Config.collaborators cfg e (.read a n) .ok = .answered .readFail e) ∧
    (∀ left, envAnswer Config.collaborators cfg e (.read a n) (.fail left) = .answered .readFail e) ∧
    (∀ w r e', envAnswer Config.collaborators cfg e (.read a n) w = .answered r e' → e' = e)

/-- R75: the three responses of an ERASE and the unit after each. -/
def Obligations.EraseContract : Prop :=
  ∀ (cfg : Cfg) (e : Env) (a : Nat),
    (∀ b, e.mem.unit a = .data b → ∃ e', envAnswer Config.collaborators cfg e (.erase a) .ok = .answered .eraseOk e' ∧
      e'.mem.unit a = .erased ∧ e'.slots = e.slots ∧ ∀ a', a' ≠ a → e'.mem.unit a' = e.mem.unit a') ∧
    (e.mem.unit a = .erased → envAnswer Config.collaborators cfg e (.erase a) .ok = .answered .alreadyErased e) ∧
    (envAnswer Config.collaborators cfg e (.erase a) .alreadyErased = .answered .alreadyErased e) ∧
    (∀ left, ∃ e', envAnswer Config.collaborators cfg e (.erase a) (.fail left) = .answered .eraseFail e' ∧
      (e'.mem.unit a = e.mem.unit a ∨ e'.mem.unit a = .erased) ∧ e'.slots = e.slots ∧
      ∀ a', a' ≠ a → e'.mem.unit a' = e.mem.unit a') ∧
    (∀ u, u = e.mem.unit a ∨ u = .erased → ∃ left e',
      envAnswer Config.collaborators cfg e (.erase a) (.fail left) = .answered .eraseFail e' ∧ e'.mem.unit a = u)

/-- R76, D10: the two responses of a WRITE and the unit after each. After a `Fail` the unit may hold any value, `Erased`
included, as D10 has it: the model's choice (notes/assumptions/11.md). That the bytes drawn are cut to `STORE_UNIT_SIZE`,
the bound of R44, is the model's choice too (notes/assumptions/12.md). -/
def Obligations.WriteContract : Prop :=
  ∀ (cfg : Cfg) (e : Env) (a : Nat) (b : List Byte),
    (∃ e', envAnswer Config.collaborators cfg e (.write a b) .ok = .answered .writeOk e' ∧
      e'.mem.unit a = .data b ∧ e'.slots = e.slots ∧ ∀ a', a' ≠ a → e'.mem.unit a' = e.mem.unit a') ∧
    (∀ left, ∃ e', envAnswer Config.collaborators cfg e (.write a b) (.fail left) = .answered .writeFail e' ∧
      (e'.mem.unit a = e.mem.unit a ∨ (e'.mem.unit a).fits cfg) ∧ e'.slots = e.slots ∧
      ∀ a', a' ≠ a → e'.mem.unit a' = e.mem.unit a') ∧
    (∀ u, u = e.mem.unit a ∨ u.fits cfg → ∃ left e',
      envAnswer Config.collaborators cfg e (.write a b) (.fail left) = .answered .writeFail e' ∧ e'.mem.unit a = u)

/-! ## Errors and faults -/

/-- R303, R301, R304, R305: a failed transaction ends the command in that step, with the status of its port, no key, every
working register zero and phase IDLE; nothing but the failed transaction's own draw changes ENV. -/
def Obligations.FailedTransactionAborts : Prop :=
  ∀ (s : State) (left : Residue) (is : List Input), s.Awaits (.fail left) is →
    ∃ req, s.blk.outstanding = some req ∧
      step s = .next { s with
        inputs := is, env := s.env.failed s.cfg req left,
        blk := Block.completed s.cfg .none (failureStatus req) zero32 }

/-- R268, R142, R185, D11: `AlreadyErased` continues SETUP and ends VERIFY with STORAGE_ERROR. -/
def Obligations.AlreadyErasedByMode : Prop :=
  ∀ (s : State) (is : List Input), s.Awaits .alreadyErased is →
    (s.blk.phase = .sErase → ∃ t, step s = .next t ∧ t.env = s.env ∧ t.blk.phase = .sMacTag ∧
      t.blk.regs.record.cnt.toNat = s.cfg.rounds) ∧
    (s.blk.phase = .vEraseDec ∨ s.blk.phase = .vEraseRst →
      step s = .next { s with inputs := is, blk := Block.completed s.cfg .none .storageError zero32 })

/-- R184: a counter of 0 ends VERIFY at once with AUTH_FAILURE, and ENV is unchanged. -/
def Obligations.LockoutFailsAtOnce : Prop :=
  ∀ (s : State) (is : List Input) (b : List Byte) (rec : Record), s.Awaits .ok is → s.blk.phase = .vRead →
    s.store = .data b → decodeRecord s.cfg.rounds (b.take s.cfg.recSize) = .ok rec → rec.cnt = 0 →
    step s = .next { s with inputs := is, blk := Block.completed s.cfg .none .authFailure zero32 }

/-- R183, R204 item 1: VERIFY on an `Erased` unit ends with STORAGE_ERROR, and ENV is unchanged. -/
def Obligations.UnreadableRecordIsStorageError : Prop :=
  ∀ (s : State) (is : List Input), s.Awaits .ok is → s.blk.phase = .vRead → s.store = .erased →
    step s = .next { s with inputs := is, blk := Block.completed s.cfg .none .storageError zero32 }

/-- R307, R234: a malformed record stops the block in FAULT with its code, before any write; nothing but a reset leaves
FAULT; and no other step sets a fault code. -/
def Obligations.MalformedRecordFaults : Prop :=
  (∀ (s : State) (is : List Input) (b : List Byte) (c : FaultCode), s.Awaits .ok is → s.blk.phase = .vRead →
    s.store = .data b → decodeRecord s.cfg.rounds (b.take s.cfg.recSize) = .error c →
    step s = .next { s with inputs := is, blk :=
      { phase := .fault, outstanding := none, regs := Regs.zero s.cfg.rounds,
        rsp := { s.blk.rsp with valid := false }, faultCode := c } }) ∧
  (∀ s : State, s.Inv → s.refusal = none → s.blk.phase = .fault → s.noReset = true →
    ∃ t, step s = .next t ∧ t.blk = s.blk ∧ t.env = s.env ∧ t.host = s.host) ∧
  (∀ s t : State, s.Inv → step s = .next t → s.blk.faultCode = .none → t.blk.faultCode ≠ .none → s.blk.phase = .vRead)

/-- R190, R189: a candidate whose tag differs ends VERIFY with AUTH_FAILURE; the decremented record and the consumed slot
stay as they are. -/
def Obligations.TagMismatchFails : Prop :=
  ∀ (s : State) (is : List Input), s.Awaits .ok is → s.Durable → s.SlotsTracked → s.blk.phase = .vMacT →
    Config.mac s.blk.regs.s [0x00] ≠ s.blk.regs.record.tag →
    ∃ t, step s = .next t ∧ t.blk = Block.completed s.cfg .none .authFailure zero32 ∧ t.env = s.env ∧
      t.store = .data (encodeRecord s.blk.regs.record) ∧
      t.env.slots[s.blk.regs.record.cnt.toNat]? = some (.keyed s.blk.regs.v)

/-! ## The transactions of the two sequences -/

/-- R146, R147, R148: the three slot operations of one SETUP iteration: the request of each, what it leaves in slot `IDX`, the
output that goes to `W`, that no other slot and no store unit changes, and the phase that follows. -/
def Obligations.SetupSlotOperations : Prop :=
  ∀ (s : State) (is : List Input), s.Awaits .ok is → s.SlotsTracked →
    (s.blk.phase = .sSlotA → s.blk.outstanding = some (.slot s.blk.regs.idx s.blk.regs.u) ∧
      ∃ t, step s = .next t ∧ t.blk.phase = .sSlotB ∧ t.blk.regs = s.blk.regs ∧
        t.env = { s.env with slots := s.env.slots.set s.blk.regs.idx.toNat (.keyed s.blk.regs.u) }) ∧
    (s.blk.phase = .sSlotB → s.blk.outstanding = some (.slot s.blk.regs.idx s.blk.regs.v) ∧
      ∃ t, step s = .next t ∧ t.blk.phase = .sSlotC ∧
        t.blk.regs = { s.blk.regs with w := Config.slotOut s.blk.regs.idx (.keyed s.blk.regs.u) s.blk.regs.v } ∧
        t.env = { s.env with slots := s.env.slots.set s.blk.regs.idx.toNat (.keyed s.blk.regs.v) }) ∧
    (s.blk.phase = .sSlotC → s.blk.outstanding = some (.slot s.blk.regs.idx s.blk.regs.u) ∧
      ∃ t, step s = .next t ∧ t.blk.phase = .sMacK ∧ t.blk.regs = s.blk.regs ∧
        t.env = { s.env with slots := s.env.slots.set s.blk.regs.idx.toNat (.keyed s.blk.regs.u) })

/-- R149, R145: the request for the round key, the round key and the masked secret, that nothing else changes, and the loop
test that follows. -/
def Obligations.SetupMasksSecret : Prop :=
  ∀ (s : State) (is : List Input), s.Awaits .ok is → s.blk.phase = .sMacK →
    s.blk.outstanding = some (.mac s.blk.regs.w (s.blk.regs.pin.toList.take s.blk.regs.pinlen.toNat)) ∧
    ∃ t k, k = Config.mac s.blk.regs.w (s.blk.regs.pin.toList.take s.blk.regs.pinlen.toNat) ∧
      step s = .next t ∧ t.env = s.env ∧
      t.blk.regs = { s.blk.regs with
        k := k, idx := s.blk.regs.idx + 1,
        record := { s.blk.regs.record with
          enc := s.blk.regs.record.enc.set s.blk.regs.idx.toNat (xor32 s.blk.regs.s k) } } ∧
      t.blk.regs.idx.toNat = s.blk.regs.idx.toNat + 1 ∧
      t.blk.phase = (if s.blk.regs.idx.toNat + 1 < s.cfg.rounds then .sSlotA else .sWrite)

/-- R150, R185, R193: a store WRITE that answers `Ok` leaves exactly `ENCODE(REC)` in the record's unit, and the sequence
goes on. -/
def Obligations.WritePersistsRecord : Prop :=
  ∀ (s : State) (is : List Input), s.Awaits .ok is →
    s.blk.phase = .sWrite ∨ s.blk.phase = .vWriteDec ∨ s.blk.phase = .vWriteRst →
    ∃ t, step s = .next t ∧ t.store = .data (encodeRecord s.blk.regs.record) ∧ t.env.slots = s.env.slots ∧
      t.blk.regs = s.blk.regs ∧
      (s.blk.phase = .sWrite → t.blk.phase = .sMacFinal) ∧ (s.blk.phase = .vWriteDec → t.blk.phase = .vMacV) ∧
      (s.blk.phase = .vWriteRst → t.blk.phase = .vMacFinal)

/-- R185, R274 DEC: the record read is decremented by one before anything else is done with it. -/
def Obligations.AttemptDecrementedFirst : Prop :=
  ∀ (s : State) (is : List Input) (b : List Byte) (rec : Record), s.Awaits .ok is → s.blk.phase = .vRead →
    s.store = .data b → decodeRecord s.cfg.rounds (b.take s.cfg.recSize) = .ok rec → rec.cnt ≠ 0 →
    ∃ t, step s = .next t ∧ t.blk.phase = .vEraseDec ∧ t.env = s.env ∧
      t.blk.regs = { s.blk.regs with record := { rec with cnt := rec.cnt - 1 } } ∧
      (rec.cnt - 1).toNat + 1 = rec.cnt.toNat

/-- R187, R188: the slot at the decremented counter is used, keyed by `V` afterwards, and its block decrypted with the key
its output gives. -/
def Obligations.VerifyUsesDecrementedSlot : Prop :=
  ∀ (s : State) (is : List Input), s.Awaits .ok is →
    (s.blk.phase = .vSlot → s.blk.outstanding = some (.slot s.blk.regs.record.cnt s.blk.regs.v) ∧
      s.blk.regs.record.cnt.toNat < s.cfg.rounds ∧ ∃ t st, s.env.slots[s.blk.regs.record.cnt.toNat]? = some st ∧ step s = .next t ∧
      t.blk.phase = .vMacK ∧
      t.blk.regs = { s.blk.regs with w := Config.slotOut s.blk.regs.record.cnt st s.blk.regs.v } ∧
      t.env = { s.env with slots := s.env.slots.set s.blk.regs.record.cnt.toNat (.keyed s.blk.regs.v) }) ∧
    (s.blk.phase = .vMacK →
      s.blk.outstanding = some (.mac s.blk.regs.w (s.blk.regs.pin.toList.take s.blk.regs.pinlen.toNat)) ∧
      ∃ t k e, k = Config.mac s.blk.regs.w (s.blk.regs.pin.toList.take s.blk.regs.pinlen.toNat) ∧
      s.blk.regs.record.enc[s.blk.regs.record.cnt.toNat]? = some e ∧ step s = .next t ∧
      t.blk.phase = .vMacT ∧ t.blk.regs = { s.blk.regs with k := k, s := xor32 e k } ∧ t.env = s.env)

/-- R192: one operation of the re-commit sequencer: its slot lies between the decremented counter and `ROUNDS`-2, is keyed by
`U` afterwards, and no other slot changes; the loop ends with the counter reset and the erase of step 11d. -/
def Obligations.RecommitOneSlot : Prop :=
  ∀ (s : State) (is : List Input), s.Awaits .ok is → s.blk.phase = .vRecommit →
    s.blk.outstanding = some (.slot s.blk.regs.idx s.blk.regs.u) ∧
    s.blk.regs.record.cnt.toNat ≤ s.blk.regs.idx.toNat ∧ s.blk.regs.idx.toNat + 2 ≤ s.cfg.rounds ∧
    ∃ t, step s = .next t ∧
      t.env = { s.env with slots := s.env.slots.set s.blk.regs.idx.toNat (.keyed s.blk.regs.u) } ∧
      t.blk.regs.idx.toNat = s.blk.regs.idx.toNat + 1 ∧
      (if s.blk.regs.idx.toNat + 3 ≤ s.cfg.rounds then
        t.blk.phase = .vRecommit ∧ t.blk.regs.record = s.blk.regs.record
      else t.blk.phase = .vEraseRst ∧ t.blk.regs.record.cnt.toNat = s.cfg.rounds ∧
        t.blk.regs.record.enc = s.blk.regs.record.enc ∧ t.blk.regs.record.tag = s.blk.regs.record.tag)

/-- R151, R152, R194: the last transaction of each sequence gives the final key of `S`, and the command completes with
it. -/
def Obligations.FinalKeyCompletes : Prop :=
  ∀ (s : State) (is : List Input), s.Awaits .ok is →
    (s.blk.phase = .sMacFinal → step s = .next { s with
      inputs := is, blk := Block.completed s.cfg .none .ok (Config.mac s.blk.regs.s [0x32]) }) ∧
    (s.blk.phase = .vMacFinal → step s = .next { s with
      inputs := is, blk := Block.completed s.cfg .none .authSuccess (Config.mac s.blk.regs.s [0x32]) })

/-! ## Invariants and whole-machine rules -/

/-- R350, R353, R48: the three invariants hold at every legal power-on of a device whose store is in canonical form and
fits, and at `State.reset`. The numbers of `State.reset`'s configuration are the model's choice (notes/assumptions/1.md). -/
def Obligations.InvariantsAtReset : Prop :=
  (∀ (cfg : Cfg) (m : Memory), cfg.legal → m.wf → (m.unit cfg.recordAddr).fits cfg →
    (State.powerOn cfg m).Inv ∧ (State.powerOn cfg m).Durable ∧ (State.powerOn cfg m).SlotsTracked) ∧
  State.reset.Inv ∧ State.reset.Durable ∧ State.reset.SlotsTracked

/-- R33 to R40, R44, R48, R108: every step keeps the invariant, for every input, draw and frame. -/
def Obligations.EveryStepKeepsInv : Prop :=
  ∀ s t : State, s.Inv → step s = .next t → t.Inv

/-- R81, R185, R352: whenever the block waits on VERIFY's slot operation, or on anything after it up to the counter's reset,
the decremented record is in the store. -/
def Obligations.EveryStepKeepsDurable : Prop :=
  ∀ s t : State, s.Inv → s.Durable → step s = .next t → t.Durable

/-- R146 to R148, R187, R192: every step keeps the account of what the slot operations have left. -/
def Obligations.EveryStepKeepsSlotsTracked : Prop :=
  ∀ s t : State, s.Inv → s.SlotsTracked → step s = .next t → t.SlotsTracked

/-- R40, R266: from a state of the invariant every step answers a next state: the model's own faults are never reached. -/
def Obligations.NoStepStops : Prop :=
  ∀ s : State, s.Inv → ∃ t, step s = .next t

/-- The memory's canonical form is kept by every step from every state that has it. The form is the model's own
(notes/assumptions/4.md). -/
def Obligations.StoreStaysCanonical : Prop :=
  ∀ s t : State, s.env.mem.wf → step s = .next t → t.env.mem.wf

/-- R70, R71, R84, R30: no step changes CFG or any store unit but the one at `RECORD_ADDR`; the record's unit changes only
under an outstanding ERASE or WRITE; and a slot changes only under an outstanding slot request for it. -/
def Obligations.OnlyTheRequestedTargetChanges : Prop :=
  ∀ s t : State, s.Inv → step s = .next t →
    t.cfg = s.cfg ∧ (∀ a, a ≠ s.cfg.recordAddr → t.env.mem.unit a = s.env.mem.unit a) ∧
    (t.store ≠ s.store → s.blk.outstanding = some (.erase s.cfg.recordAddr) ∨
      s.blk.outstanding = some (.write s.cfg.recordAddr (encodeRecord s.blk.regs.record))) ∧
    (∀ j, t.env.slots[j]? ≠ s.env.slots[j]? → ∃ i x, s.blk.outstanding = some (.slot i x) ∧ i.toNat = j)

/-- R110, R263, R266: every request the block has outstanding is in the form its port takes. -/
def Obligations.RequestsInPortForm : Prop :=
  ∀ (s : State) (req : Request), s.Inv → s.blk.outstanding = some req →
    match req with
    | .mac key msg =>
      (key = s.blk.regs.s ∧ (msg = [0x00] ∨ msg = [0x01] ∨ msg = [0x32])) ∨
      ((key = zero32 ∨ key = s.blk.regs.w) ∧ 4 ≤ msg.length ∧ msg.length ≤ 8 ∧
        msg = s.blk.regs.pin.toList.take s.blk.regs.pinlen.toNat)
    | .slot i x => i.toNat < s.cfg.rounds ∧ (x = s.blk.regs.u ∨ x = s.blk.regs.v)
    | .read a n => a = s.cfg.recordAddr ∧ n = 33 + 32 * s.cfg.rounds
    | .erase a => a = s.cfg.recordAddr
    | .write a b => a = s.cfg.recordAddr ∧ b.length = 33 + 32 * s.cfg.rounds

/-- R108, R43, R303: the key the host reads changes only to zero, or, on success, to the final key of `S`. -/
def Obligations.HostSeesOnlyFinalKey : Prop :=
  ∀ s t : State, s.Inv → step s = .next t → t.blk.rsp.key ≠ s.blk.rsp.key →
    t.blk.rsp.key = zero32 ∨
      (t.blk.rsp.key = Config.mac s.blk.regs.s [0x32] ∧ t.blk.rsp.valid = true ∧
        (s.blk.phase = .sMacFinal ∧ t.blk.rsp.status = Status.code .ok ∨
          s.blk.phase = .vMacFinal ∧ t.blk.rsp.status = Status.code .authSuccess))

/-! ## Whole commands -/

/-- R157, R158, R159, R150, R152: SETUP with every response `Ok` (where the unit was erased before, `AlreadyErased`) makes
4·`ROUNDS` + 6 transactions and ends with OK and the final key; the store holds the whole record, every slot is keyed by u,
and nothing else has changed. -/
def Obligations.SetupRunsToOk : Prop :=
  ∀ (s : State) (n : Byte) (pin sec : List Byte) (fs : List Frame) (is : List Input),
    s.StartsAllOk (encode (.setup (some n) pin sec)) fs (4 * s.cfg.rounds + 6) is →
    validSetup (some n) pin sec = true →
    ∃ t, runSteps (4 * s.cfg.rounds + 7) s = .next t ∧
      t.blk = Block.completed s.cfg .none .ok (Config.mac (bytes32 sec) [0x32]) ∧
      t.store = .data (encodeRecord
        { cnt := BitVec.ofNat 8 s.cfg.rounds,
          enc := (List.range s.cfg.rounds).map fun i =>
            xor32 (bytes32 sec) (Config.mac
              (Config.slotOut (BitVec.ofNat 8 i) (.keyed (Config.mac (bytes32 sec) [0x01])) (Config.mac zero32 pin)) pin),
          tag := Config.mac (bytes32 sec) [0x00] }) ∧
      (∀ a, a ≠ s.cfg.recordAddr → t.env.mem.unit a = s.env.mem.unit a) ∧
      t.env.slots = List.replicate s.cfg.rounds (.keyed (Config.mac (bytes32 sec) [0x01])) ∧
      t.cfg = s.cfg ∧ t.host = fs ∧ t.inputs = is ∧ t.refusal = none

/-- R198, R199, R201: VERIFY with every response `Ok`, whose candidate has another tag than the record, makes 7 transactions
and ends with AUTH_FAILURE; the counter in the store is one lower and the slot at it is keyed by v. -/
def Obligations.VerifyMismatchRun : Prop :=
  ∀ (s : State) (n : Byte) (pin : List Byte) (fs : List Frame) (is : List Input) (b : List Byte) (rec : Record)
    (st : SlotState) (e : Bytes32),
    s.StartsAllOk (encode (.verify (some n) pin [])) fs 7 is → validVerify (some n) pin [] = true →
    s.store = .data b → decodeRecord s.cfg.rounds (b.take s.cfg.recSize) = .ok rec → rec.cnt ≠ 0 →
    s.env.slots[rec.cnt.toNat - 1]? = some st → rec.enc[rec.cnt.toNat - 1]? = some e →
    Config.mac (xor32 e (Config.mac (Config.slotOut (rec.cnt - 1) st (Config.mac zero32 pin)) pin)) [0x00] ≠ rec.tag →
    ∃ t, runSteps 8 s = .next t ∧ t.blk = Block.completed s.cfg .none .authFailure zero32 ∧
      t.store = .data (encodeRecord { rec with cnt := rec.cnt - 1 }) ∧
      (∀ a, a ≠ s.cfg.recordAddr → t.env.mem.unit a = s.env.mem.unit a) ∧
      t.env.slots = s.env.slots.set (rec.cnt.toNat - 1) (.keyed (Config.mac zero32 pin)) ∧
      t.cfg = s.cfg ∧ t.host = fs ∧ t.inputs = is ∧ t.refusal = none

/-- R198, R199, R192, R193, R200, R203: VERIFY with every response `Ok`, whose candidate has the record's tag, makes
`ROUNDS` + 10 - j transactions, j the decremented counter, and ends with AUTH_SUCCESS and the candidate's final key; the
store holds the record with its counter back at `ROUNDS`; the slots from j to `ROUNDS`-2 are keyed by u, and slot
`ROUNDS`-1 is not re-committed. -/
def Obligations.VerifyMatchRun : Prop :=
  ∀ (s : State) (n : Byte) (pin : List Byte) (fs : List Frame) (is : List Input) (b : List Byte) (rec : Record)
    (st : SlotState) (e x : Bytes32) (j : Nat),
    j + 1 = rec.cnt.toNat →
    s.StartsAllOk (encode (.verify (some n) pin [])) fs (s.cfg.rounds + 10 - j) is →
    validVerify (some n) pin [] = true →
    s.store = .data b → decodeRecord s.cfg.rounds (b.take s.cfg.recSize) = .ok rec →
    s.env.slots[j]? = some st → rec.enc[j]? = some e →
    x = xor32 e (Config.mac (Config.slotOut (rec.cnt - 1) st (Config.mac zero32 pin)) pin) →
    Config.mac x [0x00] = rec.tag →
    ∃ t, runSteps (s.cfg.rounds + 11 - j) s = .next t ∧
      t.blk = Block.completed s.cfg .none .authSuccess (Config.mac x [0x32]) ∧
      t.store = .data (encodeRecord { rec with cnt := BitVec.ofNat 8 s.cfg.rounds }) ∧
      (∀ a, a ≠ s.cfg.recordAddr → t.env.mem.unit a = s.env.mem.unit a) ∧
      t.env.slots.length = s.cfg.rounds ∧
      (∀ i < s.cfg.rounds, t.env.slots[i]? =
        if j ≤ i ∧ i + 2 ≤ s.cfg.rounds then some (.keyed (Config.mac x [0x01]))
        else if i = j then some (.keyed (Config.mac zero32 pin)) else s.env.slots[i]?) ∧
      t.cfg = s.cfg ∧ t.host = fs ∧ t.inputs = is ∧ t.refusal = none

/-- R202, R184: VERIFY in lockout, with any PIN, makes one READ and ends with AUTH_FAILURE; ENV is unchanged. -/
def Obligations.VerifyLockoutRun : Prop :=
  ∀ (s : State) (n : Byte) (pin : List Byte) (fs : List Frame) (is : List Input) (b : List Byte) (rec : Record),
    s.StartsAllOk (encode (.verify (some n) pin [])) fs 1 is → validVerify (some n) pin [] = true →
    s.store = .data b → decodeRecord s.cfg.rounds (b.take s.cfg.recSize) = .ok rec → rec.cnt = 0 →
    runSteps 2 s = .next { s with
      blk := Block.completed s.cfg .none .authFailure zero32, host := fs, inputs := is }

/-- R200: a SETUP and then a VERIFY with the same PIN, every response `Ok`, end with AUTH_SUCCESS and the key that SETUP
gave. -/
def Obligations.SetupThenVerifySucceeds : Prop :=
  ∀ (s : State) (n : Byte) (pin sec : List Byte) (fs : List Frame) (is : List Input),
    s.StartsAllOk (encode (.setup (some n) pin sec)) (encode (.verify (some n) pin []) :: fs)
      (4 * s.cfg.rounds + 17) is →
    validSetup (some n) pin sec = true →
    ∃ t t', runSteps (4 * s.cfg.rounds + 7) s = .next t ∧ runSteps 12 t = .next t' ∧
      t.blk.rsp = { valid := true, status := Status.code .ok, key := Config.mac (bytes32 sec) [0x32] } ∧
      t'.blk.rsp = { valid := true, status := Status.code .authSuccess, key := t.blk.rsp.key } ∧
      t'.host = fs ∧ t'.inputs = is

/-- R156 items 4 and 5: two SETUPs with the same secret and PIN, each ending OK, leave the same record and give the same key,
whatever the store, the slots and the response register held before. -/
def Obligations.SetupForgetsThePast : Prop :=
  ∀ (s s' : State) (n : Byte) (pin sec : List Byte) (fs fs' : List Frame) (is is' : List Input),
    s.cfg = s'.cfg →
    s.StartsAllOk (encode (.setup (some n) pin sec)) fs (4 * s.cfg.rounds + 6) is →
    s'.StartsAllOk (encode (.setup (some n) pin sec)) fs' (4 * s.cfg.rounds + 6) is' →
    validSetup (some n) pin sec = true →
    ∃ t t', runSteps (4 * s.cfg.rounds + 7) s = .next t ∧ runSteps (4 * s.cfg.rounds + 7) s' = .next t' ∧
      t.store = t'.store ∧ t.env.slots = t'.env.slots ∧ t.blk = t'.blk ∧
      t.blk.rsp.status = Status.code .ok

/-- R362: every command completes, or stops the block in FAULT, after at most its number of answered transactions, whatever
the environment answers and however long it waits between its answers, as long as it answers often enough: any inputs but
resets may come, `AlreadyErased` and a whole unit among them, where they answer an ERASE (R75, R268) or a READ (R353) and
where they answer nothing. -/
def Obligations.EveryCommandEnds : Prop :=
  ∀ (s : State) (f : Frame) (fs : List Frame) (i : Instr) (xs is : List Input),
    s.Inv → s.Presents f fs → decode f = .ok i → (∀ x ∈ xs, x.isReset = false) →
    transactionBound s.cfg i ≤ xs.countP Input.surelyAnswers → s.inputs = xs ++ is →
    ∃ n k t, n ≤ xs.length + 1 ∧ runSteps n s = .next t ∧ answeredIn n s ≤ transactionBound s.cfg i ∧
      t.blk.phase.running = false ∧ t.host = fs ∧ k ≤ xs.length ∧ t.inputs = xs.drop k ++ is

/-- R313, R316, R351: a reset can come right after an acceptance. The block is reset, the next held frame stays, and what is
left of ENV is the draw for the one request that the acceptance made: SETUP's ERASE, whose two outcomes can both be, or no
change. That the inputs say `quiet` for the acceptance is the model's choice (notes/assumptions/6.md). -/
def Obligations.PowerLossRightAfterAcceptance : Prop :=
  ∀ (s : State) (f : Frame) (fs : List Frame) (i : Instr) (left : Residue) (is : List Input),
    s.Presents f fs → decode f = .ok i → s.inputs = .quiet :: .reset left :: is →
    ∃ t, runSteps 2 s = .next t ∧ t.blk = Block.reset s.cfg.rounds ∧ t.cfg = s.cfg ∧ t.host = fs ∧ t.inputs = is ∧
      t.refusal = none ∧ t.env.slots = s.env.slots ∧
      (∀ a, a ≠ s.cfg.recordAddr → t.env.mem.unit a = s.env.mem.unit a) ∧
      (∀ plen pin sec, i = .setup plen pin sec → validSetup plen pin sec = true →
        t.store = if left.unit = .erased then .erased else s.store) ∧
      (∀ plen pin sec, i = .setup plen pin sec → validSetup plen pin sec = false → t.env = s.env) ∧
      (∀ plen pin excess, i = .verify plen pin excess → t.env = s.env)

/-- R353, R234: VERIFY on a unit that holds bytes of the wrong length, fewer or more than `RECSIZE`, faults with
FAULT_PROTOCOL, and on one whose counter is above `ROUNDS` with FAULT_RECORD_RANGE. That R353's fault for too many bytes is
a draw beside R74's first bytes is the model's choice (notes/assumptions/28.md). -/
def Obligations.WrongLengthOrRangeFaults : Prop :=
  ∀ (s : State) (is : List Input) (b : List Byte) (a : Answer), s.Awaits a is → s.blk.phase = .vRead →
    s.store = .data b →
    let stopped (c : FaultCode) : State := { s with
      inputs := is, blk := { phase := .fault, outstanding := none, regs := Regs.zero s.cfg.rounds,
                             rsp := { s.blk.rsp with valid := false }, faultCode := c } }
    (b.length < s.cfg.recSize → a = .ok ∨ a = .wholeUnit → step s = .next (stopped .protocol)) ∧
    (s.cfg.recSize < b.length → a = .wholeUnit → step s = .next (stopped .protocol)) ∧
    (b.length = s.cfg.recSize → s.cfg.rounds < (b.getD 0 0).toNat → a = .ok ∨ a = .wholeUnit →
      step s = .next (stopped .recordRange))
end

