-- ==== Sys2Proof/Laws/State.lean ====
section
/-! SUPPORT. What each update of the state does to each field: true by rfl, one lemma per field per update, so that no later
proof unfolds a record update. -/

namespace Sys2Proof.Machine

section RegsUpdates

variable (r : Regs)

@[simp] theorem Regs.setIdx_idx (x : Byte) : (r.setIdx x).idx = x := rfl
@[simp] theorem Regs.setIdx_pin (x : Byte) : (r.setIdx x).pin = r.pin := rfl
@[simp] theorem Regs.setIdx_pinlen (x : Byte) : (r.setIdx x).pinlen = r.pinlen := rfl
@[simp] theorem Regs.setIdx_s (x : Byte) : (r.setIdx x).s = r.s := rfl
@[simp] theorem Regs.setIdx_u (x : Byte) : (r.setIdx x).u = r.u := rfl
@[simp] theorem Regs.setIdx_v (x : Byte) : (r.setIdx x).v = r.v := rfl
@[simp] theorem Regs.setIdx_w (x : Byte) : (r.setIdx x).w = r.w := rfl
@[simp] theorem Regs.setIdx_k (x : Byte) : (r.setIdx x).k = r.k := rfl
@[simp] theorem Regs.setIdx_t (x : Byte) : (r.setIdx x).t = r.t := rfl
@[simp] theorem Regs.setIdx_fk (x : Byte) : (r.setIdx x).fk = r.fk := rfl
@[simp] theorem Regs.setIdx_record (x : Byte) : (r.setIdx x).record = r.record := rfl

@[simp] theorem Regs.setPin_idx (x : Vector Byte 8) : (r.setPin x).idx = r.idx := rfl
@[simp] theorem Regs.setPin_pin (x : Vector Byte 8) : (r.setPin x).pin = x := rfl
@[simp] theorem Regs.setPin_pinlen (x : Vector Byte 8) : (r.setPin x).pinlen = r.pinlen := rfl
@[simp] theorem Regs.setPin_s (x : Vector Byte 8) : (r.setPin x).s = r.s := rfl
@[simp] theorem Regs.setPin_u (x : Vector Byte 8) : (r.setPin x).u = r.u := rfl
@[simp] theorem Regs.setPin_v (x : Vector Byte 8) : (r.setPin x).v = r.v := rfl
@[simp] theorem Regs.setPin_w (x : Vector Byte 8) : (r.setPin x).w = r.w := rfl
@[simp] theorem Regs.setPin_k (x : Vector Byte 8) : (r.setPin x).k = r.k := rfl
@[simp] theorem Regs.setPin_t (x : Vector Byte 8) : (r.setPin x).t = r.t := rfl
@[simp] theorem Regs.setPin_fk (x : Vector Byte 8) : (r.setPin x).fk = r.fk := rfl
@[simp] theorem Regs.setPin_record (x : Vector Byte 8) : (r.setPin x).record = r.record := rfl

@[simp] theorem Regs.setPinlen_idx (x : Byte) : (r.setPinlen x).idx = r.idx := rfl
@[simp] theorem Regs.setPinlen_pin (x : Byte) : (r.setPinlen x).pin = r.pin := rfl
@[simp] theorem Regs.setPinlen_pinlen (x : Byte) : (r.setPinlen x).pinlen = x := rfl
@[simp] theorem Regs.setPinlen_s (x : Byte) : (r.setPinlen x).s = r.s := rfl
@[simp] theorem Regs.setPinlen_u (x : Byte) : (r.setPinlen x).u = r.u := rfl
@[simp] theorem Regs.setPinlen_v (x : Byte) : (r.setPinlen x).v = r.v := rfl
@[simp] theorem Regs.setPinlen_w (x : Byte) : (r.setPinlen x).w = r.w := rfl
@[simp] theorem Regs.setPinlen_k (x : Byte) : (r.setPinlen x).k = r.k := rfl
@[simp] theorem Regs.setPinlen_t (x : Byte) : (r.setPinlen x).t = r.t := rfl
@[simp] theorem Regs.setPinlen_fk (x : Byte) : (r.setPinlen x).fk = r.fk := rfl
@[simp] theorem Regs.setPinlen_record (x : Byte) : (r.setPinlen x).record = r.record := rfl

@[simp] theorem Regs.setS_idx (x : Bytes32) : (r.setS x).idx = r.idx := rfl
@[simp] theorem Regs.setS_pin (x : Bytes32) : (r.setS x).pin = r.pin := rfl
@[simp] theorem Regs.setS_pinlen (x : Bytes32) : (r.setS x).pinlen = r.pinlen := rfl
@[simp] theorem Regs.setS_s (x : Bytes32) : (r.setS x).s = x := rfl
@[simp] theorem Regs.setS_u (x : Bytes32) : (r.setS x).u = r.u := rfl
@[simp] theorem Regs.setS_v (x : Bytes32) : (r.setS x).v = r.v := rfl
@[simp] theorem Regs.setS_w (x : Bytes32) : (r.setS x).w = r.w := rfl
@[simp] theorem Regs.setS_k (x : Bytes32) : (r.setS x).k = r.k := rfl
@[simp] theorem Regs.setS_t (x : Bytes32) : (r.setS x).t = r.t := rfl
@[simp] theorem Regs.setS_fk (x : Bytes32) : (r.setS x).fk = r.fk := rfl
@[simp] theorem Regs.setS_record (x : Bytes32) : (r.setS x).record = r.record := rfl

@[simp] theorem Regs.setU_idx (x : Bytes32) : (r.setU x).idx = r.idx := rfl
@[simp] theorem Regs.setU_pin (x : Bytes32) : (r.setU x).pin = r.pin := rfl
@[simp] theorem Regs.setU_pinlen (x : Bytes32) : (r.setU x).pinlen = r.pinlen := rfl
@[simp] theorem Regs.setU_s (x : Bytes32) : (r.setU x).s = r.s := rfl
@[simp] theorem Regs.setU_u (x : Bytes32) : (r.setU x).u = x := rfl
@[simp] theorem Regs.setU_v (x : Bytes32) : (r.setU x).v = r.v := rfl
@[simp] theorem Regs.setU_w (x : Bytes32) : (r.setU x).w = r.w := rfl
@[simp] theorem Regs.setU_k (x : Bytes32) : (r.setU x).k = r.k := rfl
@[simp] theorem Regs.setU_t (x : Bytes32) : (r.setU x).t = r.t := rfl
@[simp] theorem Regs.setU_fk (x : Bytes32) : (r.setU x).fk = r.fk := rfl
@[simp] theorem Regs.setU_record (x : Bytes32) : (r.setU x).record = r.record := rfl

@[simp] theorem Regs.setV_idx (x : Bytes32) : (r.setV x).idx = r.idx := rfl
@[simp] theorem Regs.setV_pin (x : Bytes32) : (r.setV x).pin = r.pin := rfl
@[simp] theorem Regs.setV_pinlen (x : Bytes32) : (r.setV x).pinlen = r.pinlen := rfl
@[simp] theorem Regs.setV_s (x : Bytes32) : (r.setV x).s = r.s := rfl
@[simp] theorem Regs.setV_u (x : Bytes32) : (r.setV x).u = r.u := rfl
@[simp] theorem Regs.setV_v (x : Bytes32) : (r.setV x).v = x := rfl
@[simp] theorem Regs.setV_w (x : Bytes32) : (r.setV x).w = r.w := rfl
@[simp] theorem Regs.setV_k (x : Bytes32) : (r.setV x).k = r.k := rfl
@[simp] theorem Regs.setV_t (x : Bytes32) : (r.setV x).t = r.t := rfl
@[simp] theorem Regs.setV_fk (x : Bytes32) : (r.setV x).fk = r.fk := rfl
@[simp] theorem Regs.setV_record (x : Bytes32) : (r.setV x).record = r.record := rfl

@[simp] theorem Regs.setW_idx (x : Bytes32) : (r.setW x).idx = r.idx := rfl
@[simp] theorem Regs.setW_pin (x : Bytes32) : (r.setW x).pin = r.pin := rfl
@[simp] theorem Regs.setW_pinlen (x : Bytes32) : (r.setW x).pinlen = r.pinlen := rfl
@[simp] theorem Regs.setW_s (x : Bytes32) : (r.setW x).s = r.s := rfl
@[simp] theorem Regs.setW_u (x : Bytes32) : (r.setW x).u = r.u := rfl
@[simp] theorem Regs.setW_v (x : Bytes32) : (r.setW x).v = r.v := rfl
@[simp] theorem Regs.setW_w (x : Bytes32) : (r.setW x).w = x := rfl
@[simp] theorem Regs.setW_k (x : Bytes32) : (r.setW x).k = r.k := rfl
@[simp] theorem Regs.setW_t (x : Bytes32) : (r.setW x).t = r.t := rfl
@[simp] theorem Regs.setW_fk (x : Bytes32) : (r.setW x).fk = r.fk := rfl
@[simp] theorem Regs.setW_record (x : Bytes32) : (r.setW x).record = r.record := rfl

@[simp] theorem Regs.setK_idx (x : Bytes32) : (r.setK x).idx = r.idx := rfl
@[simp] theorem Regs.setK_pin (x : Bytes32) : (r.setK x).pin = r.pin := rfl
@[simp] theorem Regs.setK_pinlen (x : Bytes32) : (r.setK x).pinlen = r.pinlen := rfl
@[simp] theorem Regs.setK_s (x : Bytes32) : (r.setK x).s = r.s := rfl
@[simp] theorem Regs.setK_u (x : Bytes32) : (r.setK x).u = r.u := rfl
@[simp] theorem Regs.setK_v (x : Bytes32) : (r.setK x).v = r.v := rfl
@[simp] theorem Regs.setK_w (x : Bytes32) : (r.setK x).w = r.w := rfl
@[simp] theorem Regs.setK_k (x : Bytes32) : (r.setK x).k = x := rfl
@[simp] theorem Regs.setK_t (x : Bytes32) : (r.setK x).t = r.t := rfl
@[simp] theorem Regs.setK_fk (x : Bytes32) : (r.setK x).fk = r.fk := rfl
@[simp] theorem Regs.setK_record (x : Bytes32) : (r.setK x).record = r.record := rfl

@[simp] theorem Regs.setT_idx (x : Bytes32) : (r.setT x).idx = r.idx := rfl
@[simp] theorem Regs.setT_pin (x : Bytes32) : (r.setT x).pin = r.pin := rfl
@[simp] theorem Regs.setT_pinlen (x : Bytes32) : (r.setT x).pinlen = r.pinlen := rfl
@[simp] theorem Regs.setT_s (x : Bytes32) : (r.setT x).s = r.s := rfl
@[simp] theorem Regs.setT_u (x : Bytes32) : (r.setT x).u = r.u := rfl
@[simp] theorem Regs.setT_v (x : Bytes32) : (r.setT x).v = r.v := rfl
@[simp] theorem Regs.setT_w (x : Bytes32) : (r.setT x).w = r.w := rfl
@[simp] theorem Regs.setT_k (x : Bytes32) : (r.setT x).k = r.k := rfl
@[simp] theorem Regs.setT_t (x : Bytes32) : (r.setT x).t = x := rfl
@[simp] theorem Regs.setT_fk (x : Bytes32) : (r.setT x).fk = r.fk := rfl
@[simp] theorem Regs.setT_record (x : Bytes32) : (r.setT x).record = r.record := rfl

@[simp] theorem Regs.setFk_idx (x : Bytes32) : (r.setFk x).idx = r.idx := rfl
@[simp] theorem Regs.setFk_pin (x : Bytes32) : (r.setFk x).pin = r.pin := rfl
@[simp] theorem Regs.setFk_pinlen (x : Bytes32) : (r.setFk x).pinlen = r.pinlen := rfl
@[simp] theorem Regs.setFk_s (x : Bytes32) : (r.setFk x).s = r.s := rfl
@[simp] theorem Regs.setFk_u (x : Bytes32) : (r.setFk x).u = r.u := rfl
@[simp] theorem Regs.setFk_v (x : Bytes32) : (r.setFk x).v = r.v := rfl
@[simp] theorem Regs.setFk_w (x : Bytes32) : (r.setFk x).w = r.w := rfl
@[simp] theorem Regs.setFk_k (x : Bytes32) : (r.setFk x).k = r.k := rfl
@[simp] theorem Regs.setFk_t (x : Bytes32) : (r.setFk x).t = r.t := rfl
@[simp] theorem Regs.setFk_fk (x : Bytes32) : (r.setFk x).fk = x := rfl
@[simp] theorem Regs.setFk_record (x : Bytes32) : (r.setFk x).record = r.record := rfl

@[simp] theorem Regs.setRecord_idx (x : Record) : (r.setRecord x).idx = r.idx := rfl
@[simp] theorem Regs.setRecord_pin (x : Record) : (r.setRecord x).pin = r.pin := rfl
@[simp] theorem Regs.setRecord_pinlen (x : Record) : (r.setRecord x).pinlen = r.pinlen := rfl
@[simp] theorem Regs.setRecord_s (x : Record) : (r.setRecord x).s = r.s := rfl
@[simp] theorem Regs.setRecord_u (x : Record) : (r.setRecord x).u = r.u := rfl
@[simp] theorem Regs.setRecord_v (x : Record) : (r.setRecord x).v = r.v := rfl
@[simp] theorem Regs.setRecord_w (x : Record) : (r.setRecord x).w = r.w := rfl
@[simp] theorem Regs.setRecord_k (x : Record) : (r.setRecord x).k = r.k := rfl
@[simp] theorem Regs.setRecord_t (x : Record) : (r.setRecord x).t = r.t := rfl
@[simp] theorem Regs.setRecord_fk (x : Record) : (r.setRecord x).fk = r.fk := rfl
@[simp] theorem Regs.setRecord_record (x : Record) : (r.setRecord x).record = x := rfl

@[simp] theorem Regs.setIdx_pinMsg (x : Byte) : (r.setIdx x).pinMsg = r.pinMsg := rfl
@[simp] theorem Regs.setS_pinMsg (x : Bytes32) : (r.setS x).pinMsg = r.pinMsg := rfl
@[simp] theorem Regs.setU_pinMsg (x : Bytes32) : (r.setU x).pinMsg = r.pinMsg := rfl
@[simp] theorem Regs.setV_pinMsg (x : Bytes32) : (r.setV x).pinMsg = r.pinMsg := rfl
@[simp] theorem Regs.setW_pinMsg (x : Bytes32) : (r.setW x).pinMsg = r.pinMsg := rfl
@[simp] theorem Regs.setK_pinMsg (x : Bytes32) : (r.setK x).pinMsg = r.pinMsg := rfl
@[simp] theorem Regs.setT_pinMsg (x : Bytes32) : (r.setT x).pinMsg = r.pinMsg := rfl
@[simp] theorem Regs.setFk_pinMsg (x : Bytes32) : (r.setFk x).pinMsg = r.pinMsg := rfl
@[simp] theorem Regs.setRecord_pinMsg (x : Record) : (r.setRecord x).pinMsg = r.pinMsg := rfl

end RegsUpdates

section RegsLoads

variable (r : Regs) (n : Byte) (l : List Byte)

@[simp] theorem Regs.loadPin_idx : (r.loadPin n l).idx = r.idx := rfl
@[simp] theorem Regs.loadPin_pin : (r.loadPin n l).pin = pinPadded l := rfl
@[simp] theorem Regs.loadPin_pinlen : (r.loadPin n l).pinlen = n := rfl
@[simp] theorem Regs.loadPin_s : (r.loadPin n l).s = r.s := rfl
@[simp] theorem Regs.loadPin_u : (r.loadPin n l).u = r.u := rfl
@[simp] theorem Regs.loadPin_v : (r.loadPin n l).v = r.v := rfl
@[simp] theorem Regs.loadPin_w : (r.loadPin n l).w = r.w := rfl
@[simp] theorem Regs.loadPin_k : (r.loadPin n l).k = r.k := rfl
@[simp] theorem Regs.loadPin_t : (r.loadPin n l).t = r.t := rfl
@[simp] theorem Regs.loadPin_fk : (r.loadPin n l).fk = r.fk := rfl
@[simp] theorem Regs.loadPin_record : (r.loadPin n l).record = r.record := rfl

@[simp] theorem Regs.zero_record (n : Nat) : (Regs.zero n).record = Record.zero n := rfl

end RegsLoads

section RecordUpdates

variable (r : Record) (n i : Nat) (x : Bytes32)

@[simp] theorem Record.load_cnt : (r.load n).cnt = BitVec.ofNat 8 n := rfl
@[simp] theorem Record.load_enc : (r.load n).enc = r.enc := rfl
@[simp] theorem Record.load_tag : (r.load n).tag = r.tag := rfl
@[simp] theorem Record.dec_cnt : (r.dec).cnt = r.cnt - 1 := rfl
@[simp] theorem Record.dec_enc : (r.dec).enc = r.enc := rfl
@[simp] theorem Record.dec_tag : (r.dec).tag = r.tag := rfl
@[simp] theorem Record.setEnc_cnt : (r.setEnc i x).cnt = r.cnt := rfl
@[simp] theorem Record.setEnc_enc : (r.setEnc i x).enc = r.enc.set i x := rfl
@[simp] theorem Record.setEnc_tag : (r.setEnc i x).tag = r.tag := rfl
@[simp] theorem Record.setTag_cnt : (r.setTag x).cnt = r.cnt := rfl
@[simp] theorem Record.setTag_enc : (r.setTag x).enc = r.enc := rfl
@[simp] theorem Record.setTag_tag : (r.setTag x).tag = x := rfl

@[simp] theorem Record.zero_cnt : (Record.zero n).cnt = 0 := rfl
@[simp] theorem Record.zero_enc : (Record.zero n).enc = List.replicate n zero32 := rfl
@[simp] theorem Record.zero_tag : (Record.zero n).tag = zero32 := rfl

end RecordUpdates

section BlockUpdates

variable (b : Block) (r : Regs)

@[simp] theorem Block.setRegs_phase : (b.setRegs r).phase = b.phase := rfl
@[simp] theorem Block.setRegs_outstanding : (b.setRegs r).outstanding = b.outstanding := rfl
@[simp] theorem Block.setRegs_regs : (b.setRegs r).regs = r := rfl
@[simp] theorem Block.setRegs_rsp : (b.setRegs r).rsp = b.rsp := rfl
@[simp] theorem Block.setRegs_faultCode : (b.setRegs r).faultCode = b.faultCode := rfl

@[simp] theorem Block.reset_phase (n : Nat) : (Block.reset n).phase = .idle := rfl
@[simp] theorem Block.reset_outstanding (n : Nat) : (Block.reset n).outstanding = none := rfl
@[simp] theorem Block.reset_regs (n : Nat) : (Block.reset n).regs = Regs.zero n := rfl
@[simp] theorem Block.reset_rsp (n : Nat) : (Block.reset n).rsp = { valid := false, status := 0x00, key := zero32 } := rfl
@[simp] theorem Block.reset_faultCode (n : Nat) : (Block.reset n).faultCode = .none := rfl

end BlockUpdates

section StateUpdates

variable (s : State)

@[simp] theorem State.setBlk_cfg (b : Block) : (s.setBlk b).cfg = s.cfg := rfl
@[simp] theorem State.setBlk_blk (b : Block) : (s.setBlk b).blk = b := rfl
@[simp] theorem State.setBlk_env (b : Block) : (s.setBlk b).env = s.env := rfl
@[simp] theorem State.setBlk_host (b : Block) : (s.setBlk b).host = s.host := rfl
@[simp] theorem State.setBlk_inputs (b : Block) : (s.setBlk b).inputs = s.inputs := rfl
@[simp] theorem State.setBlk_refusal (b : Block) : (s.setBlk b).refusal = s.refusal := rfl

@[simp] theorem State.setEnv_cfg (e : Env) : (s.setEnv e).cfg = s.cfg := rfl
@[simp] theorem State.setEnv_blk (e : Env) : (s.setEnv e).blk = s.blk := rfl
@[simp] theorem State.setEnv_env (e : Env) : (s.setEnv e).env = e := rfl
@[simp] theorem State.setEnv_host (e : Env) : (s.setEnv e).host = s.host := rfl
@[simp] theorem State.setEnv_inputs (e : Env) : (s.setEnv e).inputs = s.inputs := rfl
@[simp] theorem State.setEnv_refusal (e : Env) : (s.setEnv e).refusal = s.refusal := rfl

@[simp] theorem State.setHost_cfg (h : List Frame) : (s.setHost h).cfg = s.cfg := rfl
@[simp] theorem State.setHost_blk (h : List Frame) : (s.setHost h).blk = s.blk := rfl
@[simp] theorem State.setHost_env (h : List Frame) : (s.setHost h).env = s.env := rfl
@[simp] theorem State.setHost_host (h : List Frame) : (s.setHost h).host = h := rfl
@[simp] theorem State.setHost_inputs (h : List Frame) : (s.setHost h).inputs = s.inputs := rfl
@[simp] theorem State.setHost_refusal (h : List Frame) : (s.setHost h).refusal = s.refusal := rfl

@[simp] theorem State.setInputs_cfg (is : List Input) : (s.setInputs is).cfg = s.cfg := rfl
@[simp] theorem State.setInputs_blk (is : List Input) : (s.setInputs is).blk = s.blk := rfl
@[simp] theorem State.setInputs_env (is : List Input) : (s.setInputs is).env = s.env := rfl
@[simp] theorem State.setInputs_host (is : List Input) : (s.setInputs is).host = s.host := rfl
@[simp] theorem State.setInputs_inputs (is : List Input) : (s.setInputs is).inputs = is := rfl
@[simp] theorem State.setInputs_refusal (is : List Input) : (s.setInputs is).refusal = s.refusal := rfl

@[simp] theorem State.setRefusal_cfg (r : Refusal) : (s.setRefusal r).cfg = s.cfg := rfl
@[simp] theorem State.setRefusal_blk (r : Refusal) : (s.setRefusal r).blk = s.blk := rfl
@[simp] theorem State.setRefusal_env (r : Refusal) : (s.setRefusal r).env = s.env := rfl
@[simp] theorem State.setRefusal_host (r : Refusal) : (s.setRefusal r).host = s.host := rfl
@[simp] theorem State.passQuiet_cfg : s.passQuiet.cfg = s.cfg := rfl
@[simp] theorem State.passQuiet_blk : s.passQuiet.blk = s.blk := rfl
@[simp] theorem State.passQuiet_env : s.passQuiet.env = s.env := rfl
@[simp] theorem State.passQuiet_host : s.passQuiet.host = s.host := rfl
@[simp] theorem State.passQuiet_inputs : s.passQuiet.inputs = afterQuiet s.inputs := rfl
@[simp] theorem State.passQuiet_refusal : s.passQuiet.refusal = s.refusal := rfl
@[simp] theorem State.setRefusal_inputs (r : Refusal) : (s.setRefusal r).inputs = s.inputs := rfl
@[simp] theorem State.setRefusal_refusal (r : Refusal) : (s.setRefusal r).refusal = some r := rfl

@[simp] theorem State.powerOn_cfg (c : Cfg) (m : Memory) : (State.powerOn c m).cfg = c := rfl
@[simp] theorem State.powerOn_blk (c : Cfg) (m : Memory) : (State.powerOn c m).blk = Block.reset c.rounds := rfl
@[simp] theorem State.powerOn_env (c : Cfg) (m : Memory) : (State.powerOn c m).env = { mem := m, slots := List.replicate c.rounds .fresh } := rfl
@[simp] theorem State.powerOn_host (c : Cfg) (m : Memory) : (State.powerOn c m).host = [] := rfl
@[simp] theorem State.powerOn_inputs (c : Cfg) (m : Memory) : (State.powerOn c m).inputs = [] := rfl
@[simp] theorem State.powerOn_refusal (c : Cfg) (m : Memory) : (State.powerOn c m).refusal = none := rfl

end StateUpdates

end Sys2Proof.Machine
end

