-- ==== Sys2Proof/Laws/Codec.lean ====
section
/-! SUPPORT. Lengths and inversions of the record codec and of the datapath. -/

namespace Sys2Proof.Machine

theorem flatMap_toList_length (l : List Bytes32) : (l.flatMap Vector.toList).length = 32 * l.length := by
  induction l with
  | nil => rfl
  | cons x l ih =>
    simp only [List.flatMap_cons, List.length_append, List.length_cons, ih, Vector.length_toList]
    omega

theorem encodeRecord_length (r : Record) : (encodeRecord r).length = 33 + 32 * r.enc.length := by
  simp only [encodeRecord, List.length_cons, List.length_append, flatMap_toList_length, Vector.length_toList]
  omega

@[simp] theorem blocksFrom_length (n : Nat) (b : List Byte) : (blocksFrom n b).length = n := by
  induction n generalizing b with
  | zero => rfl
  | succ n ih => simp [blocksFrom, ih]

/-- The first 32 bytes of a sequence that begins with a 32-byte value. -/
theorem bytes32_append (x : Bytes32) (l : List Byte) : bytes32 (x.toList ++ l) = x := by
  apply Vector.ext
  intro j hj
  have h : (x.toList ++ l)[j]? = some x[j] := by
    rw [List.getElem?_append_left (by simpa using hj)]
    simp [hj]
  simp only [bytes32, Vector.getElem_ofFn, List.getD_eq_getElem?_getD, h, Option.getD_some]

/-- The 32 bytes of a 32-byte value. -/
theorem bytes32_toList (x : Bytes32) : bytes32 x.toList = x := by
  have h := bytes32_append x []
  rwa [List.append_nil] at h

/-- A record that DECODE accepts: its length, its counter's range, and the register values. -/
theorem decodeRecord_ok {rounds : Nat} {b : List Byte} {r : Record} (h : decodeRecord rounds b = .ok r) :
    b.length = 33 + 32 * rounds ∧ r.cnt.toNat ≤ rounds ∧
      r = { cnt := b.getD 0 0, enc := blocksFrom rounds (b.drop 1), tag := bytes32 (b.drop (1 + 32 * rounds)) } := by
  simp only [decodeRecord] at h
  split at h
  · cases h
  · rename_i hl
    split at h
    · cases h
    · rename_i hc
      cases h
      exact ⟨not_not.1 hl, Nat.le_of_not_lt hc, rfl⟩

theorem decodeRecord_enc_length {rounds : Nat} {b : List Byte} {r : Record} (h : decodeRecord rounds b = .ok r) :
    r.enc.length = rounds := by
  rw [(decodeRecord_ok h).2.2]
  simp

/-- A record DECODE does not accept raises one of the two faults, never `NONE`. -/
theorem decodeRecord_error {rounds : Nat} {b : List Byte} {c : FaultCode} (h : decodeRecord rounds b = .error c) :
    c = .protocol ∨ c = .recordRange := by
  simp only [decodeRecord] at h
  split at h
  · cases h
    exact .inl rfl
  · split at h
    · cases h
      exact .inr rfl
    · cases h

/-- A valid SETUP frame, in numbers (R104). -/
theorem validSetup_iff {n : Byte} {pin sec : List Byte} :
    validSetup (some n) pin sec = true ↔ 4 ≤ n.toNat ∧ n.toNat ≤ 8 ∧ pin.length = n.toNat ∧ sec.length = 32 :=
  decide_eq_true_iff

/-- A valid VERIFY frame, in numbers (R104). -/
theorem validVerify_iff {n : Byte} {pin excess : List Byte} :
    validVerify (some n) pin excess = true ↔ 4 ≤ n.toNat ∧ n.toNat ≤ 8 ∧ pin.length = n.toNat ∧ excess.length = 0 :=
  decide_eq_true_iff

theorem lockedOut_iff (r : Record) : lockedOut r = true ↔ r.cnt = 0 := by simp [lockedOut]

/-- The decrement does not wrap where the counter is not zero. -/
theorem toNat_dec {x : Byte} (h : x ≠ 0) : (x - 1).toNat = x.toNat - 1 := by
  have : x.toNat ≠ 0 := fun h0 => h (BitVec.eq_of_toNat_eq (by simpa using h0))
  bv_omega

/-- The increment does not wrap below 255. -/
theorem toNat_succ {x : Byte} (h : x.toNat < 255) : (x + 1).toNat = x.toNat + 1 := by bv_omega

/-- `ROUNDS` fits the counter. -/
theorem toNat_rounds {n : Nat} (h : n ≤ 128) : (BitVec.ofNat 8 n).toNat = n := by
  simp only [BitVec.toNat_ofNat]
  omega

@[simp] theorem xor32_getElem (a b : Bytes32) (j : Nat) (h : j < 32) : (xor32 a b)[j] = a[j] ^^^ b[j] := by
  simp [xor32]

@[simp] theorem bytes32_getElem (l : List Byte) (j : Nat) (h : j < 32) : (bytes32 l)[j] = l.getD j 0 := by
  simp [bytes32]

@[simp] theorem pinPadded_getElem (l : List Byte) (j : Nat) (h : j < 8) : (pinPadded l)[j] = l.getD j 0 := by
  simp [pinPadded]

/-- The padding of a PIN register that holds `l` is zero. -/
theorem pinPadded_drop (l : List Byte) : (pinPadded l).toList.drop l.length = List.replicate (8 - l.length) 0 := by
  apply List.ext_getElem
  · simp
  · intro i h1 h2
    simp only [List.length_drop, Vector.length_toList] at h1
    simp only [List.getElem_drop, Vector.getElem_toList, List.getElem_replicate, pinPadded_getElem]
    rw [List.getD_eq_default]
    omega

/-- The PIN message of a register that holds `l` is `l`. -/
theorem pinPadded_take (l : List Byte) (h : l.length ≤ 8) : (pinPadded l).toList.take l.length = l := by
  apply List.ext_getElem
  · simp [h]
  · intro i h1 h2
    simp only [List.getElem_take, Vector.getElem_toList, pinPadded_getElem]
    rw [List.getD_eq_getElem]

end Sys2Proof.Machine
end

