-- ==== Sys2Proof/Laws/Memory.lean ====
section
/-! SUPPORT. The laws of the record store: what a read sees after a write or an erase, and that every operation keeps the
canonical form. -/

namespace Sys2Proof.Machine

@[simp] theorem Memory.unit_write_same (m : Memory) (a : Nat) (b : List Byte) : (m.write a b).unit a = .data b := by
  induction m with
  | nil => simp [Memory.write, Memory.unit]
  | cons e m ih =>
    obtain ⟨k, c⟩ := e
    by_cases h : a < k
    · simp [Memory.write, Memory.unit, h]
    · by_cases h' : a = k
      · simp [Memory.write, Memory.unit, h']
      · simp [Memory.write, Memory.unit, h, h', ih, Ne.symm h']

theorem Memory.unit_write_other (m : Memory) {a a' : Nat} (b : List Byte) (h : a' ≠ a) :
    (m.write a b).unit a' = m.unit a' := by
  induction m with
  | nil => simp [Memory.write, Memory.unit, h.symm]
  | cons e m ih =>
    obtain ⟨k, c⟩ := e
    by_cases h1 : a < k
    · simp [Memory.write, Memory.unit, h1, h.symm]
    · by_cases h2 : a = k
      · subst h2
        simp [Memory.write, Memory.unit, h.symm]
      · simp [Memory.write, Memory.unit, h1, h2, ih]

@[simp] theorem Memory.unit_erase_same (m : Memory) (a : Nat) : (m.erase a).unit a = .erased := by
  induction m with
  | nil => rfl
  | cons e m ih =>
    obtain ⟨k, c⟩ := e
    by_cases h : k = a <;> simp [Memory.erase, Memory.unit, h, ih]

theorem Memory.unit_erase_other (m : Memory) {a a' : Nat} (h : a' ≠ a) : (m.erase a).unit a' = m.unit a' := by
  induction m with
  | nil => rfl
  | cons e m ih =>
    obtain ⟨k, c⟩ := e
    by_cases hk : k = a
    · subst hk
      simp [Memory.erase, Memory.unit, h.symm, ih]
    · simp [Memory.erase, Memory.unit, hk, ih]

theorem Memory.keys_write (m : Memory) (a : Nat) (b : List Byte) :
    ∀ k ∈ (m.write a b).map Prod.fst, k = a ∨ k ∈ m.map Prod.fst := by
  induction m with
  | nil => simp [Memory.write]
  | cons e m ih =>
    obtain ⟨k, c⟩ := e
    by_cases h1 : a < k
    · simp [Memory.write, h1]
    · by_cases h2 : a = k
      · subst h2
        simp only [Memory.write, h1, if_false, if_true, List.map_cons, List.mem_cons]
        tauto
      · simp only [Memory.write, h1, h2, if_false, List.map_cons, List.mem_cons]
        rintro k' (rfl | hk')
        · exact .inr (.inl rfl)
        · exact (ih k' hk').imp_right .inr

theorem Memory.wf_write {m : Memory} (a : Nat) (b : List Byte) (h : m.wf) : (m.write a b).wf := by
  induction m with
  | nil => simp [Memory.write, Memory.wf]
  | cons e m ih =>
    obtain ⟨k, c⟩ := e
    simp only [Memory.wf, List.map_cons, List.pairwise_cons] at h
    by_cases h1 : a < k
    · simp only [Memory.write, h1, if_true, Memory.wf, List.map_cons, List.pairwise_cons]
      refine ⟨fun k' hk' => ?_, h⟩
      rcases List.mem_cons.1 hk' with rfl | hk'
      · exact h1
      · exact h1.trans (h.1 k' hk')
    · by_cases h2 : a = k
      · subst h2
        simpa [Memory.write, Memory.wf] using h
      · simp only [Memory.write, h1, h2, if_false, Memory.wf, List.map_cons, List.pairwise_cons]
        refine ⟨fun k' hk' => ?_, ih h.2⟩
        rcases Memory.keys_write m a b k' hk' with rfl | hk'
        · omega
        · exact h.1 k' hk'

theorem Memory.erase_sublist (m : Memory) (a : Nat) : List.Sublist (m.erase a) m := by
  induction m with
  | nil => exact .slnil
  | cons e m ih =>
    obtain ⟨k, c⟩ := e
    by_cases h : k = a
    · simpa [Memory.erase, h] using ih.cons (a, c)
    · simpa [Memory.erase, h] using ih.cons_cons (k, c)

theorem Memory.wf_erase {m : Memory} (a : Nat) (h : m.wf) : (m.erase a).wf :=
  List.Pairwise.sublist ((Memory.erase_sublist m a).map _) h

theorem wf_leaveUnit {m : Memory} (cfg : Cfg) (a : Nat) (u : UnitResidue) (h : m.wf) : (leaveUnit cfg m a u).wf := by
  cases u with
  | unchanged => exact h
  | erased => exact Memory.wf_erase a h
  | data b => exact Memory.wf_write a _ h

theorem wf_afterBadErase {m : Memory} (a : Nat) (u : UnitResidue) (h : m.wf) : (afterBadErase m a u).wf := by
  cases u with
  | unchanged => exact h
  | erased => exact Memory.wf_erase a h
  | data b => exact h

end Sys2Proof.Machine
end

