-- ==== Sys2Proof/Laws/Environment.lean ====
section
/-! SUPPORT. One inversion lemma for each port: the responses the environment can give to a request, and what each does to
ENV. -/

namespace Sys2Proof.Machine

variable {c : Collaborators} {cfg : Cfg} {e e' : Env} {a : Answer} {r : Response}

/-- The MAC port: the tag or `CryptoFail`, and no state changes. -/
theorem envAnswer_mac {key : Bytes32} {msg : List Byte} (h : envAnswer c cfg e (.mac key msg) a = .answered r e') :
    e' = e ∧ ((a = .ok ∧ r = .macOk (c.mac key msg)) ∨ r = .cryptoFail) := by
  cases a <;> simp_all [envAnswer, serve, serveWhole, failureOf, Env.failed]

/-- The slot port: the output of the state before and the slot keyed by the input, or `HwFail` and any state of that
slot. -/
theorem envAnswer_slot {i : Byte} {x : Bytes32} (h : envAnswer c cfg e (.slot i x) a = .answered r e') :
    (∃ st, a = .ok ∧ e.slots[i.toNat]? = some st ∧ r = .slotOk (c.slotOut i st x) ∧
        e' = { e with slots := e.slots.set i.toNat (.keyed x) }) ∨
      ∃ left, r = .hwFail ∧ e' = { e with slots := e.slots.set i.toNat left } := by
  cases a with
  | ok =>
    simp only [envAnswer, serve] at h
    split at h
    · cases h
    · rename_i st hst
      cases h
      exact .inl ⟨st, rfl, hst, rfl, rfl⟩
  | alreadyErased => simp [envAnswer] at h
  | wholeUnit => simp [envAnswer, serveWhole] at h
  | fail left =>
    simp only [envAnswer, failureOf, Env.failed, EnvStep.answered.injEq] at h
    exact .inr ⟨left.slot, h.1.symm, h.2.symm⟩

/-- The store's READ: the first `n` bytes or all bytes of a unit that holds data, or `Fail`; nothing changes. -/
theorem envAnswer_read {ad n : Nat} (h : envAnswer c cfg e (.read ad n) a = .answered r e') :
    e' = e ∧ ((∃ l, e.mem.unit ad = .data l ∧
      ((a = .ok ∧ r = .readOk (l.take n)) ∨ (a = .wholeUnit ∧ r = .readOk l))) ∨ r = .readFail) := by
  cases a with
  | ok =>
    simp only [envAnswer, serve] at h
    split at h
    · cases h
      exact ⟨rfl, .inr rfl⟩
    · rename_i l hl
      cases h
      exact ⟨rfl, .inl ⟨l, hl, .inl ⟨rfl, rfl⟩⟩⟩
  | alreadyErased => simp [envAnswer] at h
  | wholeUnit =>
    simp only [envAnswer, serveWhole] at h
    split at h
    · cases h
      exact ⟨rfl, .inr rfl⟩
    · rename_i l hl
      cases h
      exact ⟨rfl, .inl ⟨l, hl, .inr ⟨rfl, rfl⟩⟩⟩
  | fail left =>
    simp only [envAnswer, failureOf, Env.failed, EnvStep.answered.injEq] at h
    exact ⟨h.2.symm, .inr h.1.symm⟩

/-- The store's ERASE: the unit erased, found erased or said to be, or `Fail` and a drawn unit. -/
theorem envAnswer_erase {ad : Nat} (h : envAnswer c cfg e (.erase ad) a = .answered r e') :
    (∃ l, a = .ok ∧ e.mem.unit ad = .data l ∧ r = .eraseOk ∧ e' = { e with mem := e.mem.erase ad }) ∨
      (r = .alreadyErased ∧ e' = e) ∨
      ∃ left, r = .eraseFail ∧ e' = { e with mem := afterBadErase e.mem ad left } := by
  cases a with
  | ok =>
    simp only [envAnswer, serve] at h
    split at h
    · cases h
      exact .inr (.inl ⟨rfl, rfl⟩)
    · rename_i l hl
      cases h
      exact .inl ⟨l, rfl, hl, rfl, rfl⟩
  | alreadyErased =>
    simp only [envAnswer, EnvStep.answered.injEq] at h
    exact .inr (.inl ⟨h.1.symm, h.2.symm⟩)
  | wholeUnit => simp [envAnswer, serveWhole] at h
  | fail left =>
    simp only [envAnswer, failureOf, Env.failed, EnvStep.answered.injEq] at h
    exact .inr (.inr ⟨left.unit, h.1.symm, h.2.symm⟩)

/-- The store's WRITE: the unit holds the bytes, or `Fail` and a drawn unit. -/
theorem envAnswer_write {ad : Nat} {l : List Byte} (h : envAnswer c cfg e (.write ad l) a = .answered r e') :
    (a = .ok ∧ r = .writeOk ∧ e' = { e with mem := e.mem.write ad l }) ∨
      ∃ left, r = .writeFail ∧ e' = { e with mem := leaveUnit cfg e.mem ad left } := by
  cases a with
  | ok =>
    simp only [envAnswer, serve, EnvStep.answered.injEq] at h
    exact .inl ⟨rfl, h.1.symm, h.2.symm⟩
  | alreadyErased => simp [envAnswer] at h
  | wholeUnit => simp [envAnswer, serveWhole] at h
  | fail left =>
    simp only [envAnswer, failureOf, Env.failed, EnvStep.answered.injEq] at h
    exact .inr ⟨left.unit, h.1.symm, h.2.symm⟩

end Sys2Proof.Machine
end

