-- ==== Sys2Proof/Laws/Ops.lean ====
section
/-! SUPPORT. The shared operations of the block, each with everything it does: the fields it sets and those it leaves. -/

namespace Sys2Proof.Machine

section Fields

variable (b : Block) (cfg : Cfg) (p : Phase) (q : Request) (st : Status) (key : Bytes32) (e : CmdError) (c : FaultCode)

@[simp] theorem Block.await_phase : (b.await p q).phase = p := rfl
@[simp] theorem Block.await_outstanding : (b.await p q).outstanding = some q := rfl
@[simp] theorem Block.await_regs : (b.await p q).regs = b.regs := rfl
@[simp] theorem Block.await_rsp : (b.await p q).rsp = b.rsp := rfl
@[simp] theorem Block.await_faultCode : (b.await p q).faultCode = b.faultCode := rfl

@[simp] theorem Block.accept_phase : b.accept.phase = b.phase := rfl
@[simp] theorem Block.accept_outstanding : b.accept.outstanding = b.outstanding := rfl
@[simp] theorem Block.accept_regs : b.accept.regs = b.regs := rfl
@[simp] theorem Block.accept_rsp : b.accept.rsp = { b.rsp with valid := false } := rfl
@[simp] theorem Block.accept_faultCode : b.accept.faultCode = b.faultCode := rfl

@[simp] theorem Block.complete_phase : (b.complete st key).phase = .idle := rfl
@[simp] theorem Block.complete_outstanding : (b.complete st key).outstanding = none := rfl
@[simp] theorem Block.complete_regs : (b.complete st key).regs = Regs.zero b.regs.record.enc.length := rfl
@[simp] theorem Block.complete_rsp : (b.complete st key).rsp = { valid := true, status := st.code, key := key } := rfl
@[simp] theorem Block.complete_faultCode : (b.complete st key).faultCode = b.faultCode := rfl

@[simp] theorem Block.raise_phase : (b.raise e).phase = .idle := rfl
@[simp] theorem Block.raise_outstanding : (b.raise e).outstanding = none := rfl
@[simp] theorem Block.raise_regs : (b.raise e).regs = Regs.zero b.regs.record.enc.length := rfl
@[simp] theorem Block.raise_rsp : (b.raise e).rsp = { valid := true, status := e.status.code, key := zero32 } := rfl
@[simp] theorem Block.raise_faultCode : (b.raise e).faultCode = b.faultCode := rfl

@[simp] theorem Block.raiseFault_phase : (b.raiseFault c).phase = .fault := rfl
@[simp] theorem Block.raiseFault_outstanding : (b.raiseFault c).outstanding = none := rfl
@[simp] theorem Block.raiseFault_regs : (b.raiseFault c).regs = Regs.zero b.regs.record.enc.length := rfl
@[simp] theorem Block.raiseFault_rsp : (b.raiseFault c).rsp = b.rsp := rfl
@[simp] theorem Block.raiseFault_faultCode : (b.raiseFault c).faultCode = c := rfl

end Fields

/-- The SETUP loop goes on below `ROUNDS` (R145). -/
theorem setupLoop_more {cfg : Cfg} {b : Block} (h : b.regs.idx.toNat < cfg.rounds) :
    setupLoop cfg b = b.slotReq .sSlotA b.regs.idx b.regs.u := by
  simp [setupLoop, setupLoops, h]

/-- The SETUP loop ends at `ROUNDS` (R145). -/
theorem setupLoop_done {cfg : Cfg} {b : Block} (h : ¬ b.regs.idx.toNat < cfg.rounds) :
    setupLoop cfg b = b.memWrite cfg .sWrite := by
  simp [setupLoop, setupLoops, h]

/-- The re-commit loop goes on up to `ROUNDS`-2 (R192). -/
theorem recommitLoop_more {cfg : Cfg} {b : Block} (h : b.regs.idx.toNat + 2 ≤ cfg.rounds) :
    recommitLoop cfg b = b.slotReq .vRecommit b.regs.idx b.regs.u := by
  simp [recommitLoop, recommitLoops, h]

/-- The re-commit loop ends there (R192). -/
theorem recommitLoop_done {cfg : Cfg} {b : Block} (h : ¬ b.regs.idx.toNat + 2 ≤ cfg.rounds) :
    recommitLoop cfg b =
      (b.setRegs (b.regs.setRecord (b.regs.record.load cfg.rounds))).memErase cfg .vEraseRst := by
  simp [recommitLoop, recommitLoops, h]

/-- What `resume` can make of a response to `MacReq`. -/
theorem onMac_ok {r : Response} {b b' : Block} {k : Bytes32 → Except Fault Block} (h : onMac r b k = .ok b') :
    (∃ t, r = .macOk t ∧ k t = .ok b') ∨ (r = .cryptoFail ∧ b' = b.raise .cryptoError) := by
  cases r with
  | macOk t => exact .inl ⟨t, rfl, h⟩
  | cryptoFail => exact .inr ⟨rfl, (Except.ok.inj h).symm⟩
  | _ => cases h

/-- What `resume` can make of a response to `SlotReq`. -/
theorem onSlot_ok {r : Response} {b b' : Block} {k : Bytes32 → Except Fault Block} (h : onSlot r b k = .ok b') :
    (∃ o, r = .slotOk o ∧ k o = .ok b') ∨ (r = .hwFail ∧ b' = b.raise .hardwareError) := by
  cases r with
  | slotOk o => exact .inl ⟨o, rfl, h⟩
  | hwFail => exact .inr ⟨rfl, (Except.ok.inj h).symm⟩
  | _ => cases h

/-- What `resume` can make of a response to `MemRead`. -/
theorem onRead_ok {r : Response} {b b' : Block} {k : List Byte → Except Fault Block} (h : onRead r b k = .ok b') :
    (∃ l, r = .readOk l ∧ k l = .ok b') ∨ (r = .readFail ∧ b' = b.raise .storageError) := by
  cases r with
  | readOk l => exact .inl ⟨l, rfl, h⟩
  | readFail => exact .inr ⟨rfl, (Except.ok.inj h).symm⟩
  | _ => cases h

/-- What `resume` can make of a response to `MemErase`. -/
theorem onErase_ok {m : EraseMode} {r : Response} {b b' : Block} {k : Except Fault Block}
    (h : onErase m r b k = .ok b') :
    ((r = .eraseOk ∨ (r = .alreadyErased ∧ m = .setup)) ∧ k = .ok b') ∨
      (((r = .alreadyErased ∧ m = .strict) ∨ r = .eraseFail) ∧ b' = b.raise .storageError) := by
  cases r with
  | eraseOk => exact .inl ⟨.inl rfl, h⟩
  | alreadyErased =>
    cases m with
    | setup => exact .inl ⟨.inr ⟨rfl, rfl⟩, h⟩
    | strict => exact .inr ⟨.inl ⟨rfl, rfl⟩, (Except.ok.inj h).symm⟩
  | eraseFail => exact .inr ⟨.inr rfl, (Except.ok.inj h).symm⟩
  | _ => cases h

/-- What `resume` can make of a response to `MemWrite`. -/
theorem onWrite_ok {r : Response} {b b' : Block} {k : Except Fault Block} (h : onWrite r b k = .ok b') :
    (r = .writeOk ∧ k = .ok b') ∨ (r = .writeFail ∧ b' = b.raise .storageError) := by
  cases r with
  | writeOk => exact .inl ⟨rfl, h⟩
  | writeFail => exact .inr ⟨rfl, (Except.ok.inj h).symm⟩
  | _ => cases h

end Sys2Proof.Machine
end

