-- ==== Sys2Proof/Laws/PerInstr.lean ====
section
/-! SUPPORT. The statements made for every command, one lemma per constructor. -/

namespace Sys2Proof.Laws

/-- R102, R105: the frame of a command is never reserved: its `OPC` is that of a row of the opcode table, and it decodes. -/
def KnownOpcode.Statement (i : Instr) : Prop :=
  (∃ rest, encode i = opcSetup :: rest ∨ encode i = opcVerify :: rest) ∧ ∃ j, decode (encode i) = .ok j

theorem KnownOpcode.setup (plen : Option Byte) (pin sec : List Byte) :
    KnownOpcode.Statement (.setup plen pin sec) :=
  ⟨⟨_, .inl rfl⟩, _, by rw [encode, decode, if_pos rfl]⟩

theorem KnownOpcode.verify (plen : Option Byte) (pin excess : List Byte) :
    KnownOpcode.Statement (.verify plen pin excess) :=
  ⟨⟨_, .inr rfl⟩, _, by rw [encode, decode, if_neg (by decide), if_pos rfl]⟩

end Sys2Proof.Laws
end

