-- ==== Sys2Proof/Laws/Sequencer.lean ====
section
/-! SUPPORT. The RESPONSE step phase by phase: which port's operation `resume` is in each phase (the table of R32), and
which request each phase waits on is `phaseRequest`. -/

namespace Sys2Proof.Machine

variable {cfg : Cfg} {b : Block} {r : Response}

theorem resume_sErase (h : b.phase = .sErase) : resume cfg b r = onErase .setup r b (.ok (setupAfterErase cfg b)) := by
  unfold resume
  rw [h]

theorem resume_sMacTag (h : b.phase = .sMacTag) : resume cfg b r = onMac r b fun t => .ok (setupAfterMacTag b t) := by
  unfold resume
  rw [h]

theorem resume_sMacU (h : b.phase = .sMacU) : resume cfg b r = onMac r b fun u => .ok (setupAfterMacU b u) := by
  unfold resume
  rw [h]

theorem resume_sMacV (h : b.phase = .sMacV) : resume cfg b r = onMac r b fun v => .ok (setupAfterMacV cfg b v) := by
  unfold resume
  rw [h]

theorem resume_sSlotA (h : b.phase = .sSlotA) : resume cfg b r = onSlot r b fun _ => .ok (setupAfterSlotA b) := by
  unfold resume
  rw [h]

theorem resume_sSlotB (h : b.phase = .sSlotB) : resume cfg b r = onSlot r b fun w => .ok (setupAfterSlotB b w) := by
  unfold resume
  rw [h]

theorem resume_sSlotC (h : b.phase = .sSlotC) : resume cfg b r = onSlot r b fun _ => .ok (setupAfterSlotC b) := by
  unfold resume
  rw [h]

theorem resume_sMacK (h : b.phase = .sMacK) : resume cfg b r = onMac r b fun k => setupAfterMacK cfg b k := by
  unfold resume
  rw [h]

theorem resume_sWrite (h : b.phase = .sWrite) : resume cfg b r = onWrite r b (.ok (setupAfterWrite b)) := by
  unfold resume
  rw [h]

theorem resume_sMacFinal (h : b.phase = .sMacFinal) : resume cfg b r = onMac r b fun fk => .ok (setupAfterMacFinal b fk) := by
  unfold resume
  rw [h]

theorem resume_vRead (h : b.phase = .vRead) : resume cfg b r = onRead r b fun bytes => .ok (verifyAfterRead cfg b bytes) := by
  unfold resume
  rw [h]

theorem resume_vEraseDec (h : b.phase = .vEraseDec) : resume cfg b r = onErase .strict r b (.ok (verifyAfterEraseDec cfg b)) := by
  unfold resume
  rw [h]

theorem resume_vWriteDec (h : b.phase = .vWriteDec) : resume cfg b r = onWrite r b (.ok (verifyAfterWriteDec b)) := by
  unfold resume
  rw [h]

theorem resume_vMacV (h : b.phase = .vMacV) : resume cfg b r = onMac r b fun v => .ok (verifyAfterMacV b v) := by
  unfold resume
  rw [h]

theorem resume_vSlot (h : b.phase = .vSlot) : resume cfg b r = onSlot r b fun w => .ok (verifyAfterSlot b w) := by
  unfold resume
  rw [h]

theorem resume_vMacK (h : b.phase = .vMacK) : resume cfg b r = onMac r b fun k => verifyAfterMacK b k := by
  unfold resume
  rw [h]

theorem resume_vMacT (h : b.phase = .vMacT) : resume cfg b r = onMac r b fun t => .ok (verifyAfterMacT b t) := by
  unfold resume
  rw [h]

theorem resume_vMacU (h : b.phase = .vMacU) : resume cfg b r = onMac r b fun u => .ok (verifyAfterMacU cfg b u) := by
  unfold resume
  rw [h]

theorem resume_vRecommit (h : b.phase = .vRecommit) : resume cfg b r = onSlot r b fun _ => .ok (verifyAfterRecommit cfg b) := by
  unfold resume
  rw [h]

theorem resume_vEraseRst (h : b.phase = .vEraseRst) : resume cfg b r = onErase .strict r b (.ok (verifyAfterEraseRst cfg b)) := by
  unfold resume
  rw [h]

theorem resume_vWriteRst (h : b.phase = .vWriteRst) : resume cfg b r = onWrite r b (.ok (verifyAfterWriteRst b)) := by
  unfold resume
  rw [h]

theorem resume_vMacFinal (h : b.phase = .vMacFinal) : resume cfg b r = onMac r b fun fk => .ok (verifyAfterMacFinal b fk) := by
  unfold resume
  rw [h]

/-- Everything a RESPONSE step can make of a block, one constructor per phase and port failure. -/
inductive Advance (cfg : Cfg) (b : Block) : Response → Block → Prop
  | cryptoFail : Advance cfg b .cryptoFail (b.raise .cryptoError)
  | hwFail : Advance cfg b .hwFail (b.raise .hardwareError)
  | readFail : Advance cfg b .readFail (b.raise .storageError)
  | eraseFail : Advance cfg b .eraseFail (b.raise .storageError)
  | writeFail : Advance cfg b .writeFail (b.raise .storageError)
  | notErased (h : b.phase = .vEraseDec ∨ b.phase = .vEraseRst) : Advance cfg b .alreadyErased (b.raise .storageError)
  | sErase (h : b.phase = .sErase) (r : Response) (hr : r = .eraseOk ∨ r = .alreadyErased) :
      Advance cfg b r (setupAfterErase cfg b)
  | sMacTag (h : b.phase = .sMacTag) (t : Bytes32) : Advance cfg b (.macOk t) (setupAfterMacTag b t)
  | sMacU (h : b.phase = .sMacU) (u : Bytes32) : Advance cfg b (.macOk u) (setupAfterMacU b u)
  | sMacV (h : b.phase = .sMacV) (v : Bytes32) : Advance cfg b (.macOk v) (setupAfterMacV cfg b v)
  | sSlotA (h : b.phase = .sSlotA) (o : Bytes32) : Advance cfg b (.slotOk o) (setupAfterSlotA b)
  | sSlotB (h : b.phase = .sSlotB) (w : Bytes32) : Advance cfg b (.slotOk w) (setupAfterSlotB b w)
  | sSlotC (h : b.phase = .sSlotC) (o : Bytes32) : Advance cfg b (.slotOk o) (setupAfterSlotC b)
  | sMacK (h : b.phase = .sMacK) (k : Bytes32) (b' : Block) (hk : setupAfterMacK cfg b k = .ok b') :
      Advance cfg b (.macOk k) b'
  | sWrite (h : b.phase = .sWrite) : Advance cfg b .writeOk (setupAfterWrite b)
  | sMacFinal (h : b.phase = .sMacFinal) (fk : Bytes32) : Advance cfg b (.macOk fk) (setupAfterMacFinal b fk)
  | vRead (h : b.phase = .vRead) (l : List Byte) : Advance cfg b (.readOk l) (verifyAfterRead cfg b l)
  | vEraseDec (h : b.phase = .vEraseDec) : Advance cfg b .eraseOk (verifyAfterEraseDec cfg b)
  | vWriteDec (h : b.phase = .vWriteDec) : Advance cfg b .writeOk (verifyAfterWriteDec b)
  | vMacV (h : b.phase = .vMacV) (v : Bytes32) : Advance cfg b (.macOk v) (verifyAfterMacV b v)
  | vSlot (h : b.phase = .vSlot) (w : Bytes32) : Advance cfg b (.slotOk w) (verifyAfterSlot b w)
  | vMacK (h : b.phase = .vMacK) (k : Bytes32) (b' : Block) (hk : verifyAfterMacK b k = .ok b') :
      Advance cfg b (.macOk k) b'
  | vMacT (h : b.phase = .vMacT) (t : Bytes32) : Advance cfg b (.macOk t) (verifyAfterMacT b t)
  | vMacU (h : b.phase = .vMacU) (u : Bytes32) : Advance cfg b (.macOk u) (verifyAfterMacU cfg b u)
  | vRecommit (h : b.phase = .vRecommit) (o : Bytes32) : Advance cfg b (.slotOk o) (verifyAfterRecommit cfg b)
  | vEraseRst (h : b.phase = .vEraseRst) : Advance cfg b .eraseOk (verifyAfterEraseRst cfg b)
  | vWriteRst (h : b.phase = .vWriteRst) : Advance cfg b .writeOk (verifyAfterWriteRst b)
  | vMacFinal (h : b.phase = .vMacFinal) (fk : Bytes32) : Advance cfg b (.macOk fk) (verifyAfterMacFinal b fk)

/-- A RESPONSE step that goes on is one of `Advance`. -/
theorem resume_advance {b' : Block} (h : resume cfg b r = .ok b') : Advance cfg b r b' := by
  cases hp : b.phase with
  | idle =>
    unfold resume at h
    rw [hp] at h
    cases h
  | fault =>
    unfold resume at h
    rw [hp] at h
    cases h
  | sErase =>
    rw [resume_sErase hp] at h
    obtain ⟨hr, h⟩ | ⟨⟨-, hm⟩ | rfl, rfl⟩ := onErase_ok h
    · obtain rfl := Except.ok.inj h
      exact .sErase hp r (hr.imp_right And.left)
    · cases hm
    · exact .eraseFail
  | sMacTag =>
    rw [resume_sMacTag hp] at h
    obtain ⟨t, rfl, h⟩ | ⟨rfl, rfl⟩ := onMac_ok h
    · obtain rfl := Except.ok.inj h
      exact .sMacTag hp t
    · exact .cryptoFail
  | sMacU =>
    rw [resume_sMacU hp] at h
    obtain ⟨t, rfl, h⟩ | ⟨rfl, rfl⟩ := onMac_ok h
    · obtain rfl := Except.ok.inj h
      exact .sMacU hp t
    · exact .cryptoFail
  | sMacV =>
    rw [resume_sMacV hp] at h
    obtain ⟨t, rfl, h⟩ | ⟨rfl, rfl⟩ := onMac_ok h
    · obtain rfl := Except.ok.inj h
      exact .sMacV hp t
    · exact .cryptoFail
  | sSlotA =>
    rw [resume_sSlotA hp] at h
    obtain ⟨t, rfl, h⟩ | ⟨rfl, rfl⟩ := onSlot_ok h
    · obtain rfl := Except.ok.inj h
      exact .sSlotA hp t
    · exact .hwFail
  | sSlotB =>
    rw [resume_sSlotB hp] at h
    obtain ⟨t, rfl, h⟩ | ⟨rfl, rfl⟩ := onSlot_ok h
    · obtain rfl := Except.ok.inj h
      exact .sSlotB hp t
    · exact .hwFail
  | sSlotC =>
    rw [resume_sSlotC hp] at h
    obtain ⟨t, rfl, h⟩ | ⟨rfl, rfl⟩ := onSlot_ok h
    · obtain rfl := Except.ok.inj h
      exact .sSlotC hp t
    · exact .hwFail
  | sMacK =>
    rw [resume_sMacK hp] at h
    obtain ⟨k, rfl, h⟩ | ⟨rfl, rfl⟩ := onMac_ok h
    · exact .sMacK hp k _ h
    · exact .cryptoFail
  | sWrite =>
    rw [resume_sWrite hp] at h
    obtain ⟨rfl, h⟩ | ⟨rfl, rfl⟩ := onWrite_ok h
    · obtain rfl := Except.ok.inj h
      exact .sWrite hp
    · exact .writeFail
  | sMacFinal =>
    rw [resume_sMacFinal hp] at h
    obtain ⟨t, rfl, h⟩ | ⟨rfl, rfl⟩ := onMac_ok h
    · obtain rfl := Except.ok.inj h
      exact .sMacFinal hp t
    · exact .cryptoFail
  | vRead =>
    rw [resume_vRead hp] at h
    obtain ⟨t, rfl, h⟩ | ⟨rfl, rfl⟩ := onRead_ok h
    · obtain rfl := Except.ok.inj h
      exact .vRead hp t
    · exact .readFail
  | vEraseDec =>
    rw [resume_vEraseDec hp] at h
    obtain ⟨rfl | ⟨-, hm⟩, h⟩ | ⟨⟨rfl, -⟩ | rfl, rfl⟩ := onErase_ok h
    · obtain rfl := Except.ok.inj h
      exact .vEraseDec hp
    · cases hm
    · exact .notErased (.inl hp)
    · exact .eraseFail
  | vWriteDec =>
    rw [resume_vWriteDec hp] at h
    obtain ⟨rfl, h⟩ | ⟨rfl, rfl⟩ := onWrite_ok h
    · obtain rfl := Except.ok.inj h
      exact .vWriteDec hp
    · exact .writeFail
  | vMacV =>
    rw [resume_vMacV hp] at h
    obtain ⟨t, rfl, h⟩ | ⟨rfl, rfl⟩ := onMac_ok h
    · obtain rfl := Except.ok.inj h
      exact .vMacV hp t
    · exact .cryptoFail
  | vSlot =>
    rw [resume_vSlot hp] at h
    obtain ⟨t, rfl, h⟩ | ⟨rfl, rfl⟩ := onSlot_ok h
    · obtain rfl := Except.ok.inj h
      exact .vSlot hp t
    · exact .hwFail
  | vMacK =>
    rw [resume_vMacK hp] at h
    obtain ⟨k, rfl, h⟩ | ⟨rfl, rfl⟩ := onMac_ok h
    · exact .vMacK hp k _ h
    · exact .cryptoFail
  | vMacT =>
    rw [resume_vMacT hp] at h
    obtain ⟨t, rfl, h⟩ | ⟨rfl, rfl⟩ := onMac_ok h
    · obtain rfl := Except.ok.inj h
      exact .vMacT hp t
    · exact .cryptoFail
  | vMacU =>
    rw [resume_vMacU hp] at h
    obtain ⟨t, rfl, h⟩ | ⟨rfl, rfl⟩ := onMac_ok h
    · obtain rfl := Except.ok.inj h
      exact .vMacU hp t
    · exact .cryptoFail
  | vRecommit =>
    rw [resume_vRecommit hp] at h
    obtain ⟨t, rfl, h⟩ | ⟨rfl, rfl⟩ := onSlot_ok h
    · obtain rfl := Except.ok.inj h
      exact .vRecommit hp t
    · exact .hwFail
  | vEraseRst =>
    rw [resume_vEraseRst hp] at h
    obtain ⟨rfl | ⟨-, hm⟩, h⟩ | ⟨⟨rfl, -⟩ | rfl, rfl⟩ := onErase_ok h
    · obtain rfl := Except.ok.inj h
      exact .vEraseRst hp
    · cases hm
    · exact .notErased (.inr hp)
    · exact .eraseFail
  | vWriteRst =>
    rw [resume_vWriteRst hp] at h
    obtain ⟨rfl, h⟩ | ⟨rfl, rfl⟩ := onWrite_ok h
    · obtain rfl := Except.ok.inj h
      exact .vWriteRst hp
    · exact .writeFail
  | vMacFinal =>
    rw [resume_vMacFinal hp] at h
    obtain ⟨t, rfl, h⟩ | ⟨rfl, rfl⟩ := onMac_ok h
    · obtain rfl := Except.ok.inj h
      exact .vMacFinal hp t
    · exact .cryptoFail

end Sys2Proof.Machine
end

