-- ==== Sys2Proof/Laws/Step.lean ====
section
/-! SUPPORT. Everything one step of the system can do, said once: the inversion lemmas of `answerNext`, `acceptNext`,
the two commands and `systemStep`. -/

namespace Sys2Proof.Machine

variable {c : Collaborators} {s t : State}

section Refuse

variable (s : State) (r : Refusal)

@[simp] theorem State.refuse_cfg : (s.refuse r).cfg = s.cfg := rfl
@[simp] theorem State.refuse_blk : (s.refuse r).blk = s.blk := rfl
@[simp] theorem State.refuse_env : (s.refuse r).env = s.env := rfl
@[simp] theorem State.refuse_host : (s.refuse r).host = s.host := rfl
@[simp] theorem State.refuse_inputs : (s.refuse r).inputs = s.inputs := rfl
@[simp] theorem State.refuse_refusal : (s.refuse r).refusal = some (s.refusal.getD r) := rfl

end Refuse

/-- A RESPONSE step that goes on: nothing is delivered and nothing changes, or one response is delivered, with its effect
on ENV, and the block handles it. -/
theorem answerNext_next {a : Answer} (h : answerNext c s a = .next t) :
    t = s ∨ ∃ req r e b, s.blk.outstanding = some req ∧ envAnswer c s.cfg s.env req a = .answered r e ∧
      resume s.cfg s.blk r = .ok b ∧ t = (s.setEnv e).setBlk b := by
  simp only [answerNext] at h
  split at h
  · cases h
    exact .inl rfl
  · rename_i req hreq
    split at h
    · cases h
      exact .inl rfl
    · cases h
    · rename_i r e he
      split at h
      · cases h
      · rename_i b hb
        cases h
        exact .inr ⟨req, r, e, b, hreq, he, hb, rfl⟩

/-- What SETUP's ACCEPT step answers. -/
theorem execSetup_next {plen : Option Byte} {pin sec : List Byte} (h : execSetup plen pin sec s = .next t) :
    (s.blk.phase ≠ .idle ∧ t = s) ∨
      (s.blk.phase = .idle ∧ validSetup plen pin sec = true ∧
        t = s.setBlk ((s.blk.accept.setRegs ((s.blk.regs.loadPin (plen.getD 0) pin).setS (bytes32 sec))).memErase
          s.cfg .sErase)) ∨
      (s.blk.phase = .idle ∧ validSetup plen pin sec = false ∧ t = s.setBlk (s.blk.accept.raise .paramError)) := by
  simp only [execSetup] at h
  split at h
  · rename_i hp
    cases hv : validSetup plen pin sec with
    | false => simp_all
    | true => simp_all
  · rename_i hp
    cases h
    exact .inl ⟨hp, rfl⟩

/-- What VERIFY's ACCEPT step answers. -/
theorem execVerify_next {plen : Option Byte} {pin excess : List Byte} (h : execVerify plen pin excess s = .next t) :
    (s.blk.phase ≠ .idle ∧ t = s) ∨
      (s.blk.phase = .idle ∧ validVerify plen pin excess = true ∧
        t = s.setBlk ((s.blk.accept.setRegs (s.blk.regs.loadPin (plen.getD 0) pin)).memRead s.cfg .vRead)) ∨
      (s.blk.phase = .idle ∧ validVerify plen pin excess = false ∧ t = s.setBlk (s.blk.accept.raise .paramError)) := by
  simp only [execVerify] at h
  split at h
  · rename_i hp
    cases hv : validVerify plen pin excess with
    | false => simp_all
    | true => simp_all
  · rename_i hp
    cases h
    exact .inl ⟨hp, rfl⟩

/-- An ACCEPT step that goes on: no frame, a command run, or a reserved frame marked. -/
theorem acceptNext_next (h : acceptNext s = .next t) :
    t = s ∨ (∃ f fs i, s.host = f :: fs ∧ decode f = .ok i ∧ exec i (s.setHost fs) = .next t) ∨
      ∃ f fs e, s.host = f :: fs ∧ decode f = .error e ∧ t = (s.setHost fs).refuse (refusalOf e) := by
  simp only [acceptNext] at h
  split at h
  · cases h
    exact .inl rfl
  · rename_i f fs hf
    split at h
    · rename_i i hi
      exact .inr (.inl ⟨f, fs, i, hf, hi, h⟩)
    · rename_i e he
      cases h
      exact .inr (.inr ⟨f, fs, e, hf, he, rfl⟩)

/-- A quiet step leaves a state as it is if no `quiet` comes first. -/
theorem State.passQuiet_eq (h : afterQuiet s.inputs = s.inputs) : s.passQuiet = s := by
  simp only [State.passQuiet, h]
  rfl

/-- A frame can be accepted exactly in IDLE with a frame presented. -/
theorem canAccept_iff : s.canAccept = true ↔ s.blk.phase = .idle ∧ s.host ≠ [] := by
  cases h : s.host <;> simp [State.canAccept, h]

/-- Whether a frame can be accepted does not depend on the inputs. -/
@[simp] theorem State.setInputs_canAccept (is : List Input) : (s.setInputs is).canAccept = s.canAccept := rfl

/-- A quiet step that goes on: a frame is taken in IDLE, or the block holds. -/
theorem acceptOrHold_next (h : acceptOrHold s = .next t) :
    (s.canAccept = true ∧ acceptNext s = .next t) ∨ (s.canAccept = false ∧ t = s) := by
  unfold acceptOrHold at h
  split at h
  · exact .inl ⟨‹_›, h⟩
  · rename_i hc
    cases h
    exact .inr ⟨by simpa using hc, rfl⟩

/-- A step that goes on: an illegal configuration is marked, a reset happens, a frame is taken in IDLE, the block holds, or
the environment's next answer is used. -/
theorem systemStep_next (h : systemStep c s = .next t) :
    (¬ s.cfg.legal ∧ t = s.refuse .illegalConfiguration) ∨
      (s.cfg.legal ∧
        ((∃ left is, s.inputs = .reset left :: is ∧ t = (s.setInputs is).applyReset left) ∨
          (s.canAccept = true ∧ acceptNext s.passQuiet = .next t) ∨
          (s.canAccept = false ∧ t = s.passQuiet) ∨
          ∃ a is, s.inputs = .answer a :: is ∧ s.canAccept = false ∧ answerNext c (s.setInputs is) a = .next t)) := by
  simp only [systemStep] at h
  by_cases hl : s.cfg.legal
  · rw [if_pos hl] at h
    refine .inr ⟨hl, ?_⟩
    split at h
    · rename_i left is hi
      cases h
      exact .inl ⟨left, is, hi, rfl⟩
    · rename_i a is hi
      split at h
      · rw [State.passQuiet_eq (by simp [hi, afterQuiet])]
        exact .inr (.inl ⟨‹_›, h⟩)
      · rename_i hc
        exact .inr (.inr (.inr ⟨a, is, hi, by simpa using hc, h⟩))
    · rename_i is hi
      have hq : s.passQuiet = s.setInputs is := by simp only [State.passQuiet, hi, afterQuiet]
      rw [hq]
      obtain ⟨hc, h⟩ | ⟨hc, rfl⟩ := acceptOrHold_next h
      · exact .inr (.inl ⟨hc, h⟩)
      · exact .inr (.inr (.inl ⟨hc, rfl⟩))
    · rename_i hi
      rw [State.passQuiet_eq (by simp [hi, afterQuiet])]
      obtain ⟨hc, h⟩ | ⟨hc, rfl⟩ := acceptOrHold_next h
      · exact .inr (.inl ⟨hc, h⟩)
      · exact .inr (.inr (.inl ⟨hc, rfl⟩))
  · rw [if_neg hl] at h
    cases h
    exact .inl ⟨hl, rfl⟩

/-- The step where a reset comes. -/
theorem systemStep_reset {left : Residue} {is : List Input} (hl : s.cfg.legal)
    (hi : s.inputs = .reset left :: is) : systemStep c s = .next ((s.setInputs is).applyReset left) := by
  simp only [systemStep, if_pos hl, hi]

/-- The step where neither a reset nor an answer comes. -/
theorem systemStep_quiet (hl : s.cfg.legal) (hi : s.inputs = [] ∨ ∃ is, s.inputs = .quiet :: is) :
    systemStep c s = acceptOrHold s.passQuiet := by
  obtain hi | ⟨is, hi⟩ := hi
  · rw [State.passQuiet_eq (by simp [hi, afterQuiet])]
    simp only [systemStep, if_pos hl, hi]
  · simp only [systemStep, if_pos hl, hi, State.passQuiet, afterQuiet]

/-- The step where a frame is presented in IDLE and no reset comes. -/
theorem systemStep_accept {f : Frame} {fs : List Frame} (hl : s.cfg.legal)
    (hn : ∀ left is, s.inputs ≠ .reset left :: is) (hp : s.blk.phase = .idle) (hf : s.host = f :: fs) :
    systemStep c s = acceptNext s.passQuiet := by
  have hc : s.canAccept = true := canAccept_iff.2 ⟨hp, by simp [hf]⟩
  cases hi : s.inputs with
  | nil => rw [systemStep_quiet hl (.inl hi)]; exact if_pos hc
  | cons x is =>
    cases x with
    | quiet => rw [systemStep_quiet hl (.inr ⟨is, hi⟩)]; exact if_pos hc
    | reset left => exact absurd hi (hn left is)
    | answer a =>
      rw [State.passQuiet_eq (by simp [hi, afterQuiet])]
      simp only [systemStep, if_pos hl, hi, hc, if_true]

/-- The step where the environment's next answer is used. -/
theorem systemStep_answer {a : Answer} {is : List Input} (hl : s.cfg.legal)
    (hi : s.inputs = .answer a :: is) (hc : s.canAccept = false) :
    systemStep c s = answerNext c (s.setInputs is) a := by
  simp only [systemStep, if_pos hl, hi, hc]
  exact if_neg Bool.false_ne_true

/-- A RESPONSE step whose request is answered with `r` and handled. -/
theorem answerNext_of {a : Answer} {req : Request} {r : Response} {e : Env} {b : Block}
    (ho : s.blk.outstanding = some req) (he : envAnswer c s.cfg s.env req a = .answered r e)
    (hb : resume s.cfg s.blk r = .ok b) : answerNext c s a = .next ((s.setEnv e).setBlk b) := by
  simp only [answerNext, ho, he, hb]

end Sys2Proof.Machine
end

