-- ==== Sys2Proof/Laws/Safety.lean ====
section
/-! SUPPORT. What the invariant and the premises of claims give at once, and how runs compose. -/

namespace Sys2Proof.Machine

variable {s t : State}

/-- A running phase is neither IDLE nor FAULT. -/
theorem Phase.running_iff (p : Phase) : p.running = true ↔ p ≠ .idle ∧ p ≠ .fault := by simp [Phase.running]

/-- Outside FAULT there is no fault code. -/
theorem Block.Inv.noFault {cfg : Cfg} {b : Block} (h : b.Inv cfg) (hp : b.phase ≠ .fault) : b.faultCode = .none := by
  by_contra hc
  exact hp (h.faultIff.1 hc)

/-- Outside IDLE no response is valid. -/
theorem Block.Inv.notValid {cfg : Cfg} {b : Block} (h : b.Inv cfg) (hp : b.phase ≠ .idle) : b.rsp.valid = false := by
  by_contra hc
  exact hp (h.validIdle (by simpa using hc))

/-- The transaction a phase waits on. -/
theorem Block.Inv.waitsIn {cfg : Cfg} {b : Block} (h : b.Inv cfg) {p : Phase} (hp : b.phase = p) :
    b.outstanding = phaseRequest cfg b.regs p := hp ▸ h.waits

/-- A completed command leaves `Block.completed`. -/
theorem Block.complete_eq {cfg : Cfg} {b : Block} (h : b.regs.record.enc.length = cfg.rounds) (st : Status)
    (key : Bytes32) : b.complete st key = Block.completed cfg b.faultCode st key := by
  simp [Block.complete, Block.completed, Block.respond, Block.zeroize, Block.stopIn, h]

/-- An abort leaves `Block.completed`. -/
theorem Block.raise_eq {cfg : Cfg} {b : Block} (h : b.regs.record.enc.length = cfg.rounds) (e : CmdError) :
    b.raise e = Block.completed cfg b.faultCode e.status zero32 := Block.complete_eq h _ _

/-- A running block accepts nothing. -/
theorem not_canAccept (h : s.blk.phase.running = true) : s.canAccept = false := by
  by_contra hc
  have := (canAccept_iff.1 (by simpa using hc)).1
  simp [this, Phase.running] at h

/-- The step under `State.Presents`. -/
theorem State.Presents.step_eq {f : Frame} {fs : List Frame} (h : s.Presents f fs) : step s = acceptNext s.passQuiet :=
  systemStep_accept h.legal (fun l is hi => by simpa [State.noReset, hi] using h.noReset) h.idle h.next

/-- The step under `State.Awaits`. -/
theorem State.Awaits.step_eq {a : Answer} {is : List Input} (h : s.Awaits a is) :
    step s = answerNext Config.collaborators (s.setInputs is) a :=
  systemStep_answer h.inv.legal h.next (not_canAccept h.running)

/-- A RESPONSE step leaves CFG, the host, the rest of the inputs and the refusal mark. -/
theorem answerNext_frame {c : Collaborators} {a : Answer} (h : answerNext c s a = .next t) :
    t.cfg = s.cfg ∧ t.host = s.host ∧ t.inputs = s.inputs ∧ t.refusal = s.refusal := by
  obtain rfl | ⟨req, r, e, b, h1, h2, h3, rfl⟩ := answerNext_next h <;> simp

/-- The SETUP loop writes neither the response register nor the fault code. -/
theorem setupLoop_keeps (cfg : Cfg) (b : Block) :
    (setupLoop cfg b).rsp = b.rsp ∧ (setupLoop cfg b).faultCode = b.faultCode ∧ (setupLoop cfg b).regs = b.regs := by
  unfold setupLoop
  split <;> exact ⟨rfl, rfl, rfl⟩

/-- Neither does the re-commit loop. -/
theorem recommitLoop_keeps (cfg : Cfg) (b : Block) :
    (recommitLoop cfg b).rsp = b.rsp ∧ (recommitLoop cfg b).faultCode = b.faultCode := by
  unfold recommitLoop
  split <;> exact ⟨rfl, rfl⟩

/-- A run of one step and then more. -/
theorem runSteps_succ {n : Nat} {u : State} (h : step s = .next t) (h' : runSteps n t = .next u) :
    runSteps (n + 1) s = .next u := by
  simp only [runSteps, h, h']

/-- A run in two parts. -/
theorem runSteps_add (m n : Nat) {s t : State} (h : runSteps m s = .next t) : runSteps (m + n) s = runSteps n t := by
  induction m generalizing s with
  | zero =>
    cases h
    simp
  | succ m ih =>
    rw [show m + 1 + n = (m + n) + 1 by omega]
    simp only [runSteps] at h ⊢
    cases hs : step s with
    | next u =>
      rw [hs] at h
      exact ih h
    | fault f =>
      rw [hs] at h
      cases h
    | refused f =>
      rw [hs] at h
      cases h

end Sys2Proof.Machine
end

