-- ==== Sys2Proof/Tests/Slice0.lean ====
section
/-! SUPPORT. The model's own tests, with expected values from spec/95_test_vectors.md or from the encoding tables by hand,
and a witness for every statement that has hypotheses. -/

namespace Sys2Proof.Tests

open Sys2Proof Sys2Proof.Machine

/-! ## Well-formed commands: each check refuses one term (R101) -/

theorem test_wf_without_length : ¬ (Instr.setup none [1] []).WellFormed ∧ ¬ (Instr.verify none [] [1]).WellFormed := by
  decide

theorem test_wf_pin_over_length : ¬ (Instr.setup (some 1) [1, 2] []).WellFormed ∧
    ¬ (Instr.verify (some 0) [1] []).WellFormed := by decide

theorem test_wf_tail_after_short_pin : ¬ (Instr.setup (some 4) [1, 2] [3]).WellFormed ∧
    ¬ (Instr.verify (some 4) [1, 2, 3] [4]).WellFormed := by decide

theorem test_wf_accepts : (Instr.setup (some 4) [1, 2, 3, 4] [5]).WellFormed ∧ (Instr.verify none [] []).WellFormed ∧
    (Instr.verify (some 255) [1] []).WellFormed := by decide

/-! ## Decoding, bit by bit from the tables of R101 and R102 -/

/-- `OPC` 0000_0001, `PLEN` 0000_0100, the PIN bytes, the first and the last secret byte. -/
theorem test_decode_setup :
    decode ([0b00000001, 0b00000100, 0b00000001, 0b00000010, 0b00000011, 0b00000100, 0b10000000] ++
      List.replicate 30 0 ++ [0b11111110]) =
      .ok (.setup (some 4) [1, 2, 3, 4] ([0x80] ++ List.replicate 30 0 ++ [0xFE])) := by decide

/-- V-ENC-2: `OPC` 0000_0010, `PLEN` 0000_1000. -/
theorem test_decode_verify :
    decode [0b00000010, 0b00001000, 1, 2, 3, 4, 5, 6, 7, 8] = .ok (.verify (some 8) [1, 2, 3, 4, 5, 6, 7, 8] []) := by
  decide

/-- V-ENC-13 and V-ENC-15; and one flipped bit of each opcode gives a reserved frame. -/
theorem test_decode_reserved :
    decode [0x00, 4, 1, 2, 3, 4] = .error (.reservedOpcode 0x00) ∧ decode [0xFF] = .error (.reservedOpcode 0xFF) ∧
    decode [0b10000001] = .error (.reservedOpcode 0x81) ∧ decode [0b00010010] = .error (.reservedOpcode 0x12) := by decide

/-- The two rows of spec/opcode_table.json, and a row with its operand bytes in the number. -/
theorem test_table_words :
    decodeTableWord 8 0x01 = some (.setup (some 0) [] (List.replicate 32 0)) ∧
    decodeTableWord 8 0x02 = some (.verify (some 0) [] []) ∧
    decodeTableWord 48 0x040302010402 = some (.verify (some 4) [1, 2, 3, 4] []) ∧
    decodeTableWord 8 0x03 = none := by decide

/-- R111: either case of the digits, a comment, and what the assembler rejects. -/
theorem test_assemble :
    assemble "VERIFY pin=0a0B0c0D ; text".toList = some [0x02, 0x04, 0x0A, 0x0B, 0x0C, 0x0D] ∧
    assemble "VERIFY pin=010203".toList = none ∧ assemble "SETUP pin=01020304, secret=00".toList = none ∧
    assemble "FRAME 02 03 01 02 03".toList = some [0x02, 0x03, 0x01, 0x02, 0x03] := by decide

/-! ## Codec and datapath vectors -/

/-- V-COD-2, V-COD-4, V-COD-5, V-COD-6. -/
theorem test_decode_record :
    decodeRecord 1 (0x01 :: (List.replicate 32 0xAA ++ List.replicate 32 0x55)) =
      .ok { cnt := 1, enc := [Vector.replicate 32 0xAA], tag := Vector.replicate 32 0x55 } ∧
    decodeRecord 1 (0x02 :: List.replicate 64 0) = .error .recordRange ∧
    decodeRecord 1 (0x01 :: List.replicate 63 0) = .error .protocol ∧
    decodeRecord 1 (0x01 :: List.replicate 65 0) = .error .protocol := by decide

/-- V-COD-10. -/
theorem test_encode_record :
    encodeRecord { cnt := 0, enc := [Vector.replicate 32 0x11, Vector.replicate 32 0x22],
                   tag := Vector.replicate 32 0x33 } =
      0x00 :: (List.replicate 32 0x11 ++ List.replicate 32 0x22 ++ List.replicate 32 0x33) := by decide

/-- V-DP-1, V-DP-5, V-DP-6, V-DP-7. -/
theorem test_lanes :
    xor32 (Vector.replicate 32 0xF0) (Vector.replicate 32 0x3C) = Vector.replicate 32 0xCC ∧
    eq32 zero32 zero32 = true ∧ eq32 zero32 (bytes32 (List.replicate 31 0 ++ [1])) = false ∧
    eq32 (bytes32 [0x80]) zero32 = false := by decide

/-! ## Helpers -/

/-- A configuration with one round, and one with two. -/
def oneRound : Cfg := { rounds := 1, recordAddr := 3, storeUnitSize := 65 }
def twoRounds : Cfg := { rounds := 2, recordAddr := 3, storeUnitSize := 97 }

/-- A system in IDLE. -/
def idleState (cfg : Cfg) (mem : Memory) (host : List Frame) (inputs : List Input) : State :=
  ((State.powerOn cfg mem).setHost host).setInputs inputs

/-- Registers with the PIN 01020304, an index, a counter and a tag. -/
def regsAt (rounds : Nat) (idx cnt : Byte) (tag : Bytes32) : Regs :=
  { Regs.zero rounds with
    idx := idx, pinlen := 4, pin := pinPadded [1, 2, 3, 4], record := { Record.zero rounds with cnt := cnt, tag := tag } }

/-- A block that runs a command, in phase `p`. -/
def runningBlock (cfg : Cfg) (p : Phase) (r : Regs) : Block :=
  { phase := p, outstanding := phaseRequest cfg r p, regs := r, rsp := { valid := false, status := 0, key := zero32 },
    faultCode := .none }

/-- A system with such a block, every slot keyed by zero. -/
def runningState (cfg : Cfg) (p : Phase) (r : Regs) (mem : Memory) (inputs : List Input) : State :=
  { cfg := cfg, blk := runningBlock cfg p r,
    env := { mem := mem, slots := List.replicate cfg.rounds (.keyed zero32) },
    host := [], inputs := inputs, refusal := none }

theorem runningBlock_inv {cfg : Cfg} {p : Phase} {r : Regs} (he : r.record.enc.length = cfg.rounds)
    (hc : r.record.cnt.toNat ≤ cfg.rounds) (hi : r.idx.toNat ≤ cfg.rounds) (hco : countersFit cfg.rounds r p)
    (hp : p.running = true) (hpin : r.pinHeld) : (runningBlock cfg p r).Inv cfg := by
  have hq := (Phase.running_iff p).1 hp
  refine ⟨he, hc, hi, hco, rfl, fun _ => hpin, fun h => ?_, ?_, fun h => (by cases h),
    (by simp [runningBlock]), fun _ _ => rfl⟩
  · rw [show (runningBlock cfg p r).phase = p from rfl, hp] at h
    cases h
  · exact ⟨fun h => absurd rfl h, fun h => absurd h hq.2⟩

theorem regsAt_pinHeld (rounds : Nat) (idx cnt : Byte) (tag : Bytes32) : (regsAt rounds idx cnt tag).pinHeld := by
  exact (by decide : (regsAt 0 0 0 zero32).pinHeld)

theorem idleBlock_inv (cfg : Cfg) : (Block.reset cfg.rounds).Inv cfg := by
  constructor <;> simp [Block.reset, Regs.zero, Record.zero, countersFit, phaseRequest, Phase.running]

/-- A store that holds `b` at the record's address. -/
abbrev storeOf (b : List Byte) : Memory := [(3, b)]

theorem idle_inv {cfg : Cfg} {mem : Memory} {host : List Frame} {inputs : List Input} (hl : cfg.legal) (hw : mem.wf)
    (hf : (mem.unit cfg.recordAddr).fits cfg) : (idleState cfg mem host inputs).Inv :=
  ⟨hl, hw, hf, by simp [idleState, State.powerOn], idleBlock_inv cfg⟩

/-- The counters' part of a witness in phase `p`, with `rounds` rounds. -/
abbrev Fits (cfg : Cfg) (p : Phase) (idx cnt : Byte) : Prop :=
  cnt.toNat ≤ cfg.rounds ∧ idx.toNat ≤ cfg.rounds ∧ countersFit cfg.rounds (regsAt cfg.rounds idx cnt zero32) p ∧
    p.running = true

theorem running_inv {cfg : Cfg} {p : Phase} {idx cnt : Byte} {tag : Bytes32} {mem : Memory} {inputs : List Input}
    (hl : cfg.legal) (hw : mem.wf) (hf : (mem.unit cfg.recordAddr).fits cfg) (h : Fits cfg p idx cnt) :
    (runningState cfg p (regsAt cfg.rounds idx cnt tag) mem inputs).Inv := by
  obtain ⟨h1, h2, h3, h4⟩ := h
  refine ⟨hl, hw, hf, by simp [runningState], runningBlock_inv (by simp [runningState, regsAt, Record.zero]) h1 h2 ?_ h4
    (regsAt_pinHeld _ _ _ _)⟩
  cases p <;> exact h3

theorem running_awaits {cfg : Cfg} {p : Phase} {idx cnt : Byte} {tag : Bytes32} {mem : Memory} {a : Answer}
    (hl : cfg.legal) (hw : mem.wf) (hf : (mem.unit cfg.recordAddr).fits cfg) (h : Fits cfg p idx cnt) :
    (runningState cfg p (regsAt cfg.rounds idx cnt tag) mem [.answer a]).Awaits a [] :=
  ⟨rfl, running_inv hl hw hf h, h.2.2.2, rfl⟩

theorem idle_starts {cfg : Cfg} {mem : Memory} {f : Frame} {fs : List Frame} {n : Nat} (hl : cfg.legal) (hw : mem.wf)
    (hf : (mem.unit cfg.recordAddr).fits cfg) : (idleState cfg mem (f :: fs) (allOk n)).StartsAllOk f fs n [] :=
  ⟨rfl, idle_inv hl hw hf, rfl, rfl, (List.append_nil _).symm⟩

theorem idle_presents {cfg : Cfg} {mem : Memory} {f : Frame} {fs : List Frame} (hl : cfg.legal) :
    (idleState cfg mem (f :: fs) []).Presents f fs := ⟨rfl, hl, rfl, rfl, rfl⟩

/-- The bytes after a test's record count, for one and for two rounds. -/
def rest (rounds : Nat) : List Byte := List.replicate (32 + 32 * rounds) 0

theorem fits_one {c : Byte} : (Memory.unit (storeOf (c :: rest 1)) 3).fits oneRound := by
  show (c :: rest 1).length ≤ 65
  simp [rest]

theorem fits_two {c : Byte} : (Memory.unit (storeOf (c :: rest 2)) 3).fits twoRounds := by
  show (c :: rest 2).length ≤ 97
  simp [rest]

/-! ## One step of each command -/

/-- The next state of a step of the system, or `s` where there is none. -/
def nextOf (c : Collaborators) (s : State) : State :=
  match systemStep c s with
  | .next t => t
  | _ => s

/-- R103, R141: what SETUP's ACCEPT step loads and requests. -/
theorem test_setup_accept :
    (let t := nextOf Config.collaborators (idleState oneRound [] [[0x01, 0x04, 9, 8, 7, 6] ++ List.replicate 32 0x5A] []);
      (t.blk.phase, t.blk.outstanding, t.blk.regs.pinlen, t.blk.regs.pin.toList, t.blk.regs.s)) =
      (.sErase, some (.erase 3), 4, [9, 8, 7, 6, 0, 0, 0, 0], Vector.replicate 32 0x5A) := by decide

/-- W2: VERIFY with a PIN of length 3 answers PARAM_ERROR and makes no transaction. -/
theorem test_verify_short_pin :
    (let t := nextOf Config.collaborators (idleState oneRound [] [[0x02, 0x03, 1, 2, 3]] []);
      (t.blk.phase, t.blk.outstanding, t.blk.rsp, t.env)) =
      (.idle, none, { valid := true, status := 0x03, key := zero32 }, { mem := [], slots := [.fresh] }) := by decide

/-- The MAC of spec/95_test_vectors.md section 4, a test fixture of the spec and no part of the model. -/
def toyMac (key : Bytes32) (msg : List Byte) : Bytes32 :=
  (msg.zipIdx).foldl (fun h mp => Vector.ofFn fun j : Fin 32 =>
    5 * h.toList.getD j.val 0 + 2 * h.toList.getD ((j.val + 1) % 32) 0 + mp.1 + BitVec.ofNat 8 mp.2 +
      BitVec.ofNat 8 (7 * j.val + 1)) key

/-- The collaborators of that section. -/
def toy : Collaborators :=
  { mac := toyMac
    slotOut := fun i st x => toyMac (xor32 (match st with | .fresh => Vector.replicate 32 0xA5 | .keyed y => y) x) [i] }

/-- The bytes of a test's hexadecimal text. -/
def hx (s : String) : Bytes32 := bytes32 ((hexBytes s.toList).getD [])

/-- R149 and the table of section 4: SETUP's round 0 gives `E_0`. -/
theorem test_setup_round_key :
    (nextOf toy (runningState oneRound .sMacK
      { regsAt 1 0 1 zero32 with
        s := hx "00112233445566778899AABBCCDDEEFF00112233445566778899AABBCCDDEEFF",
        w := hx "D9A2EBD43DE64FF8610AB3BCC5CE97609942EBF4FD060F18212AF31C05EE9700" } [] [.answer .ok])).blk.regs.record.enc =
      [hx "315BC12F919BE1F7B1AB813F11EB2197F1FBC10FD1BB21D771CBC15FD18B2177"] := by decide +kernel

/-- R187 and the table of section 4: VERIFY's slot operation at the decremented counter 0 gives `w_0` from a slot keyed by
`u`, and leaves it keyed by `v`. -/
theorem test_verify_slot :
    (let u := hx "24A2209E1C9A18961492108E0C8A08669412900E8C0A8806840280FE7CFA78D6"
     let v := hx "807060504030201000F0E0D0C0B0A090807060504030201000F0E0D0C0B0A010"
     let s := runningState oneRound .vSlot { regsAt 1 0 0 zero32 with v := v } [] [.answer .ok]
     let t := nextOf toy (s.setEnv { s.env with slots := [.keyed u] })
     t.blk.regs.w = hx "D9A2EBD43DE64FF8610AB3BCC5CE97609942EBF4FD060F18212AF31C05EE9700" ∧
       t.env.slots = [.keyed v]) := by decide +kernel

/-- The next step after `withFetchWord` runs the table row's command. -/
theorem test_fetch_word :
    (nextOf Config.collaborators (State.reset.withFetchWord 48 0x040302010402)).blk.phase = .vRead ∧
    (nextOf Config.collaborators (State.reset.withFetchWord 8 0x01)).blk.rsp.status = 0x03 := by decide

/-! ## Witnesses: for every statement with hypotheses, states and operands that meet them -/

/-- The frames of the witnesses: a valid SETUP with the longest PIN and a valid VERIFY with the shortest. -/
abbrev pin8 : List Byte := [1, 2, 3, 4, 5, 6, 7, 8]
abbrev pin4 : List Byte := [1, 2, 3, 4]
abbrev sec0 : List Byte := List.replicate 32 0
abbrev setupFrame : Frame := encode (.setup (some 4) pin4 sec0)
abbrev verifyFrame : Frame := encode (.verify (some 4) pin4 [])

theorem witness_DecodeOfEncode : (Instr.setup none [] []).WellFormed ∧ (Instr.setup (some 8) pin8 sec0).WellFormed ∧
    (Instr.verify (some 4) pin4 []).WellFormed := by decide

theorem witness_EncodeOfDecode : decode [0x02, 0x04, 1, 2] = .ok (.verify (some 4) [1, 2] []) := by decide

theorem witness_FrameLengthFromTwoBytes :
    decode (encode (.setup (some 4) pin4 sec0)) = .ok (.setup (some 4) pin4 sec0) ∧
    decode (encode (.verify (some 8) pin8 [1])) = .ok (.verify (some 8) pin8 [1]) ∧
    4 ≤ (4 : Byte).toNat ∧ (8 : Byte).toNat ≤ 8 := by decide

theorem witness_FrameValidity : decode [0x01] = .ok (.setup none [] []) ∧
    decode setupFrame = .ok (.setup (some 4) pin4 sec0) ∧
    decode [0x02, 0x03, 1, 2, 3] = .ok (.verify (some 3) [1, 2, 3] []) ∧
    (idleState oneRound [] [] []).Inv ∧ (idleState oneRound [] [] []).blk.phase = .idle ∧
    validSetup (some 3) [1, 2, 3] [] = false ∧ validVerify (some 9) (9 :: pin8) [] = false :=
  ⟨by decide, by decide, by decide, idle_inv (by decide) (by decide) trivial, rfl, by decide, by decide⟩

theorem witness_OperandsAssembledFromFrame : (idleState oneRound [] [] []).blk.phase = .idle ∧
    decode (encode (.setup (some 8) pin8 sec0)) = .ok (.setup (some 8) pin8 sec0) ∧
    validSetup (some 8) pin8 sec0 = true ∧
    decode verifyFrame = .ok (.verify (some 4) pin4 []) ∧ validVerify (some 4) pin4 [] = true := by decide

theorem witness_AssemblerSpellsFrames : validSetup (some 8) pin8 sec0 = true ∧ validSetup (some 4) pin4 sec0 = true ∧
    validVerify (some 8) pin8 [] = true ∧ validVerify (some 4) pin4 [] = true := by decide

theorem witness_SetupAccepted : State.reset.blk.phase = .idle ∧ validSetup (some 4) pin4 sec0 = true := by decide

theorem witness_VerifyAccepted : State.reset.blk.phase = .idle ∧ validVerify (some 8) pin8 [] = true := by decide

theorem witness_AcceptFrame :
    (∃ t, exec (.setup (some 4) pin4 sec0) State.reset = .next t ∧ t.blk.phase ≠ .idle) ∧
    (∃ t, exec (.verify (some 4) pin4 []) State.reset = .next t ∧ t.blk.phase ≠ .idle) ∧
    (runningState oneRound .vRead (regsAt 1 0 0 zero32) [] []).blk.phase ≠ .idle :=
  ⟨⟨_, rfl, by decide⟩, ⟨_, rfl, by decide⟩, by decide⟩

theorem witness_AcceptedOnlyInIdle :
    (let s := runningState oneRound .vRead (regsAt 1 0 0 zero32) [] []; step s = .next s ∧ s.blk.phase ≠ .idle) ∧
    (∃ t, (idleState oneRound [] [setupFrame] []).Presents setupFrame [] ∧
      decode setupFrame = .ok (.setup (some 4) pin4 sec0) ∧ step (idleState oneRound [] [setupFrame] []) = .next t) :=
  ⟨⟨rfl, by decide⟩, ⟨_, idle_presents (by decide), by decide, rfl⟩⟩

theorem witness_RefusalOnlyMarks :
    ((idleState oneRound [] [[]] []).Presents [] [] ∧ decode [] = .error .emptyFrame) ∧
    ((idleState oneRound [] [[0x03]] []).Presents [0x03] [] ∧ decode [0x03] = .error (.reservedOpcode 0x03)) ∧
    (¬ Cfg.legal { oneRound with rounds := 0 } ∧
      ¬ Cfg.legal { rounds := 129, recordAddr := 0, storeUnitSize := 5000 } ∧
      ¬ Cfg.legal { oneRound with storeUnitSize := 64 }) ∧
    (∃ t, (idleState oneRound [] [[]] []).refusal = none ∧ step (idleState oneRound [] [[]] []) = .next t ∧
      t.refusal ≠ none ∧ ∃ t', step t = .next t') :=
  ⟨⟨idle_presents (by decide), by decide⟩, ⟨idle_presents (by decide), by decide⟩, by decide,
    ⟨_, rfl, rfl, by decide, _, rfl⟩⟩

theorem witness_StepRunsDecodedCommand : (idleState oneRound [] [[0x01]] []).Presents [0x01] [] ∧
    decode [0x01] = .ok (.setup none [] []) ∧
    (idleState oneRound [] [verifyFrame, [0x01]] []).Presents verifyFrame [[0x01]] ∧
    decode verifyFrame = .ok (.verify (some 4) pin4 []) :=
  ⟨idle_presents (by decide), by decide, idle_presents (by decide), by decide⟩

theorem witness_StepHandlesResponse :
    (let s := runningState oneRound .sErase (regsAt 1 0 0 zero32) (storeOf [7]) [.answer .ok];
      s.Awaits .ok [] ∧ s.blk.outstanding = some (.erase 3) ∧
        envAnswer Config.collaborators s.cfg s.env (.erase 3) .ok = .answered .eraseOk { s.env with mem := [] } ∧
        resume s.cfg s.blk .eraseOk = .ok (setupAfterErase s.cfg s.blk)) :=
  ⟨running_awaits (by decide) (by decide) (by show 1 ≤ 65; decide) (by decide), rfl, rfl, rfl⟩

theorem witness_HoldsWithoutInput : State.reset.refusal = none ∧ State.reset.cfg.legal ∧ State.reset.inputs = [] ∧
    State.reset.host = [] ∧
    (runningState oneRound .vSlot (regsAt 1 0 0 zero32) [] [.quiet]).blk.phase ≠ .idle ∧
    (runningState oneRound .vSlot (regsAt 1 0 0 zero32) [] [.quiet]).inputs = .quiet :: [] := by decide

/-- What a reset leaves in the witnesses: anything. -/
abbrev left0 : Residue := { unit := .data [1], slot := .fresh }

theorem witness_ResetSetsEveryRegister :
    (let s := runningState oneRound .vSlot (regsAt 1 0 0 zero32) [] [.reset left0];
      s.refusal = none ∧ s.cfg.legal ∧ s.inputs = .reset left0 :: []) ∧
    (let s := idleState oneRound [] [] [.reset left0]; s.inputs = .reset left0 :: [] ∧ s.blk.outstanding = none) := by
  decide

theorem witness_PowerLossDraws :
    oneRound.legal ∧ (runningBlock oneRound .sMacTag (regsAt 1 0 1 zero32)).outstanding = some (.mac zero32 [0x00]) ∧
    (runningBlock oneRound .vRead (regsAt 1 0 0 zero32)).outstanding = some (.read 3 65) ∧
    (runningBlock oneRound .vEraseDec (regsAt 1 0 0 zero32)).outstanding = some (.erase 3) ∧
    (runningBlock oneRound .vWriteDec (regsAt 1 0 0 zero32)).outstanding = some (.write 3 (0 :: rest 1)) ∧
    (runningBlock oneRound .vSlot (regsAt 1 0 0 zero32)).outstanding = some (.slot 0 zero32) ∧
    (0 : Byte).toNat < (runningState oneRound .vSlot (regsAt 1 0 0 zero32) [] []).env.slots.length := by decide

theorem witness_PowerLossDraws_unit : (StoreUnit.data (List.replicate 65 7)).fits oneRound ∧
    StoreUnit.erased.fits oneRound := ⟨by show 65 ≤ 65; decide, trivial⟩

theorem witness_RecordLayout : (Record.zero 128).enc.length = 128 ∧ (Record.zero 1).enc.length = 1 :=
  ⟨List.length_replicate, rfl⟩

theorem witness_DecodeRecordByField : ([] : List Byte).length ≠ 33 + 32 * 1 ∧
    (0x02 :: rest 1).length = 33 + 32 * 1 ∧ ((0x02 :: rest 1).getD 0 0).toNat > 1 ∧
    ((0x01 :: rest 1).getD 0 0).toNat ≤ 1 := by decide

theorem witness_RecordRoundTrip : (Record.zero 2).enc.length = 2 ∧ (Record.zero 2).dec.dec.cnt.toNat > 2 ∧
    ((Record.zero 2).load 2).cnt.toNat ≤ 2 ∧ (0x02 :: rest 2).length = 33 + 32 * 2 ∧
    encodeRecord (Record.zero 2) = encodeRecord (Record.zero 2) := by decide

theorem witness_MacContract : ∃ r e', envAnswer Config.collaborators oneRound { mem := [], slots := [] }
    (.mac zero32 [1]) (.fail left0) = .answered r e' := ⟨_, _, rfl⟩

theorem witness_SlotContract :
    (let e : Env := { mem := [], slots := [.fresh] };
      (0 : Byte).toNat < e.slots.length ∧
        ∃ r e', envAnswer Config.collaborators oneRound e (.slot 0 zero32) (.fail left0) = .answered r e') :=
  ⟨by decide, _, _, rfl⟩

theorem witness_ReadContract :
    (let e : Env := { mem := storeOf [1, 2], slots := [] };
      e.mem.unit 3 = .data [1, 2] ∧ (2 : Nat) ≤ [1, 2].length ∧ [1, 2].length < 3 ∧ e.mem.unit 4 = .erased ∧
        ∃ r e', envAnswer Config.collaborators oneRound e (.read 3 2) .ok = .answered r e') :=
  ⟨by decide, by decide, by decide, by decide, _, _, rfl⟩

theorem witness_EraseContract : (storeOf []).unit 3 = .data [] ∧ (storeOf []).unit 2 = .erased := by decide

theorem witness_WriteContract :
    StoreUnit.fits oneRound .erased ∧ StoreUnit.fits oneRound (.data (List.replicate 65 0)) := ⟨trivial, by decide⟩

theorem witness_FailedTransactionAborts :
    (runningState oneRound .sWrite (regsAt 1 1 1 zero32) [] [.answer (.fail left0)]).Awaits (.fail left0) [] :=
  running_awaits (by decide) (by decide) trivial (by decide)

theorem witness_AlreadyErasedByMode :
    ((runningState oneRound .sErase (regsAt 1 0 0 zero32) [] [.answer .alreadyErased]).Awaits .alreadyErased []) ∧
    ((runningState oneRound .vEraseDec (regsAt 1 0 0 zero32) [] [.answer .alreadyErased]).Awaits .alreadyErased []) ∧
    ((runningState oneRound .vEraseRst (regsAt 1 0 1 zero32) [] [.answer .alreadyErased]).Awaits .alreadyErased []) :=
  ⟨running_awaits (by decide) (by decide) trivial (by decide), running_awaits (by decide) (by decide) trivial (by decide),
    running_awaits (by decide) (by decide) trivial (by decide)⟩

/-- VERIFY waits on its READ, with this store, and the environment answers `Ok`. -/
abbrev atRead (cfg : Cfg) (mem : Memory) : State :=
  runningState cfg .vRead (regsAt cfg.rounds 0 0 zero32) mem [.answer .ok]

theorem witness_LockoutFailsAtOnce : (atRead oneRound (storeOf (0 :: rest 1))).Awaits .ok [] ∧
    (atRead oneRound (storeOf (0 :: rest 1))).store = .data (0 :: rest 1) ∧
    decodeRecord 1 ((0 :: rest 1).take 65) = .ok (Record.zero 1) ∧ (Record.zero 1).cnt = 0 :=
  ⟨running_awaits (by decide) (by decide) fits_one (by decide), rfl, by decide, rfl⟩

theorem witness_UnreadableRecordIsStorageError : (atRead oneRound []).Awaits .ok [] ∧
    (atRead oneRound []).store = .erased :=
  ⟨running_awaits (by decide) (by decide) trivial (by decide), rfl⟩

/-- A block stopped in FAULT. -/
def faulted (s : State) : State :=
  s.setBlk { Block.reset s.cfg.rounds with phase := .fault, faultCode := .protocol }

theorem faulted_inv {s : State} (h : s.Inv) : (faulted s).Inv := by
  refine ⟨h.legal, h.memWf, h.unitFits, h.slotCount, ?_⟩
  constructor <;> simp [faulted, Block.reset, Regs.zero, Record.zero, countersFit, phaseRequest, Phase.running]

theorem witness_MalformedRecordFaults :
    ((atRead oneRound (storeOf (2 :: rest 1))).Awaits .ok [] ∧
      decodeRecord 1 ((2 :: rest 1).take 65) = .error .recordRange) ∧
    ((atRead oneRound (storeOf [])).Awaits .ok [] ∧ decodeRecord 1 (([] : List Byte).take 65) = .error .protocol) ∧
    ((faulted (idleState oneRound [] [[0x01]] [])).Inv ∧
      (faulted (idleState oneRound [] [[0x01]] [])).noReset = true) ∧
    (∃ t, (atRead oneRound (storeOf [])).Inv ∧ step (atRead oneRound (storeOf [])) = .next t ∧
      t.blk.faultCode ≠ .none) :=
  ⟨⟨running_awaits (by decide) (by decide) fits_one (by decide), by decide⟩,
    ⟨running_awaits (by decide) (by decide) (Nat.zero_le _) (by decide), by decide⟩,
    ⟨faulted_inv (idle_inv (by decide) (by decide) trivial), rfl⟩,
    ⟨_, running_inv (by decide) (by decide) (Nat.zero_le _) (by decide), rfl, by decide⟩⟩

/-- There is a value other than a given one. -/
theorem other (x : Bytes32) : ∃ y : Bytes32, x ≠ y := by
  by_cases h : x = zero32
  · exact ⟨Vector.replicate 32 1, h ▸ by decide⟩
  · exact ⟨zero32, h⟩

theorem witness_TagMismatchFails : ∃ tag,
    (let r := regsAt 1 0 0 tag; let s := runningState oneRound .vMacT r (storeOf (encodeRecord r.record)) [.answer .ok];
      s.Awaits .ok [] ∧ s.Durable ∧ s.SlotsTracked ∧ s.blk.phase = .vMacT ∧
        Config.mac s.blk.regs.s [0x00] ≠ s.blk.regs.record.tag) := by
  obtain ⟨tag, h⟩ := other (Config.mac zero32 [0x00])
  refine ⟨tag, running_awaits (by decide) (List.pairwise_singleton ..) ?_ (by decide), rfl, rfl, rfl, h⟩
  show (encodeRecord _).length ≤ 65
  rw [encodeRecord_length]
  exact (by decide : 65 ≤ 65)

theorem witness_SetupSlotOperations :
    (let s := runningState twoRounds .sSlotA (regsAt 2 0 2 zero32) [] [.answer .ok]; s.Awaits .ok [] ∧ s.SlotsTracked) ∧
    (let s := runningState twoRounds .sSlotB (regsAt 2 1 2 zero32) [] [.answer .ok]; s.Awaits .ok [] ∧ s.SlotsTracked) ∧
    (let s := runningState twoRounds .sSlotC (regsAt 2 1 2 zero32) [] [.answer .ok]; s.Awaits .ok [] ∧ s.SlotsTracked) := by
  refine ⟨⟨running_awaits (by decide) (by decide) trivial (by decide), ?_⟩,
    ⟨running_awaits (by decide) (by decide) trivial (by decide), ?_⟩,
    ⟨running_awaits (by decide) (by decide) trivial (by decide), ?_⟩⟩
  · show ∀ j < 0, _
    decide
  · show ∀ j ≤ 1, _
    decide
  · show (∀ j < 1, _) ∧ _
    decide

theorem witness_SetupMasksSecret :
    (runningState twoRounds .sMacK (regsAt 2 0 2 zero32) [] [.answer .ok]).Awaits .ok [] ∧
    (runningState twoRounds .sMacK (regsAt 2 1 2 zero32) [] [.answer .ok]).Awaits .ok [] :=
  ⟨running_awaits (by decide) (by decide) trivial (by decide), running_awaits (by decide) (by decide) trivial (by decide)⟩

theorem witness_WritePersistsRecord :
    (runningState oneRound .sWrite (regsAt 1 1 1 zero32) [] [.answer .ok]).Awaits .ok [] ∧
    (runningState oneRound .vWriteDec (regsAt 1 0 0 zero32) [] [.answer .ok]).Awaits .ok [] ∧
    (runningState oneRound .vWriteRst (regsAt 1 0 1 zero32) [] [.answer .ok]).Awaits .ok [] :=
  ⟨running_awaits (by decide) (by decide) trivial (by decide), running_awaits (by decide) (by decide) trivial (by decide),
    running_awaits (by decide) (by decide) trivial (by decide)⟩

theorem witness_AttemptDecrementedFirst : (atRead twoRounds (storeOf (2 :: rest 2))).Awaits .ok [] ∧
    decodeRecord 2 ((2 :: rest 2).take 97) = .ok ((Record.zero 2).load 2) ∧ ((Record.zero 2).load 2).cnt ≠ 0 :=
  ⟨running_awaits (by decide) (by decide) fits_two (by decide), by decide, by decide⟩

theorem witness_VerifyUsesDecrementedSlot :
    (runningState twoRounds .vSlot (regsAt 2 0 1 zero32) [] [.answer .ok]).Awaits .ok [] ∧
    (runningState twoRounds .vMacK (regsAt 2 0 0 zero32) [] [.answer .ok]).Awaits .ok [] :=
  ⟨running_awaits (by decide) (by decide) trivial (by decide), running_awaits (by decide) (by decide) trivial (by decide)⟩

/-- A configuration with three rounds: the loop of the re-commit sequencer goes on once, and then ends. -/
def threeRounds : Cfg := { rounds := 3, recordAddr := 3, storeUnitSize := 129 }

theorem witness_RecommitOneSlot :
    (runningState threeRounds .vRecommit (regsAt 3 0 0 zero32) [] [.answer .ok]).Awaits .ok [] ∧
    (runningState threeRounds .vRecommit (regsAt 3 1 0 zero32) [] [.answer .ok]).Awaits .ok [] :=
  ⟨running_awaits (by decide) (by decide) trivial (by decide), running_awaits (by decide) (by decide) trivial (by decide)⟩

theorem witness_FinalKeyCompletes :
    (runningState oneRound .sMacFinal (regsAt 1 1 1 zero32) [] [.answer .ok]).Awaits .ok [] ∧
    (runningState oneRound .vMacFinal (regsAt 1 0 1 zero32) [] [.answer .ok]).Awaits .ok [] :=
  ⟨running_awaits (by decide) (by decide) trivial (by decide), running_awaits (by decide) (by decide) trivial (by decide)⟩

theorem witness_InvariantsAtReset : oneRound.legal ∧
    Cfg.legal { rounds := 128, recordAddr := 0, storeUnitSize := 4129 } ∧ (storeOf []).wf ∧
    ((storeOf []).unit oneRound.recordAddr).fits oneRound := ⟨by decide, by decide, by decide, Nat.zero_le _⟩

/-- A running state of the invariant that steps. -/
theorem steps_from_erase : ∃ s t : State, s.Inv ∧ s.Durable ∧ s.SlotsTracked ∧ s.refusal = none ∧ step s = .next t ∧
    t.store ≠ s.store :=
  ⟨runningState oneRound .vEraseDec (regsAt 1 0 0 zero32) (storeOf (1 :: rest 1)) [.answer .ok], _,
    running_inv (by decide) (by decide) fits_one (by decide), trivial, trivial, rfl, rfl, by decide⟩

theorem witness_EveryStepKeepsInv : ∃ s t : State, s.Inv ∧ step s = .next t :=
  let ⟨s, t, h, _, _, _, h', _⟩ := steps_from_erase
  ⟨s, t, h, h'⟩

theorem witness_EveryStepKeepsDurable : ∃ s t : State, s.Inv ∧ s.Durable ∧ step s = .next t :=
  let ⟨s, t, h, hd, _, _, h', _⟩ := steps_from_erase
  ⟨s, t, h, hd, h'⟩

theorem witness_EveryStepKeepsSlotsTracked : ∃ s t : State, s.Inv ∧ s.SlotsTracked ∧ step s = .next t :=
  let ⟨s, t, h, _, hs, _, h', _⟩ := steps_from_erase
  ⟨s, t, h, hs, h'⟩

theorem witness_NoStepStops : State.reset.Inv ∧
    (runningState oneRound .vSlot (regsAt 1 0 0 zero32) [] [.answer .ok]).Inv :=
  ⟨idle_inv (by decide) (by decide) trivial, running_inv (by decide) (by decide) trivial (by decide)⟩

theorem witness_StoreStaysCanonical : State.reset.env.mem.wf ∧ step State.reset = .next State.reset :=
  ⟨by decide, rfl⟩

theorem witness_OnlyTheRequestedTargetChanges :
    (∃ s t : State, s.Inv ∧ step s = .next t ∧ t.store ≠ s.store) ∧
    (∃ (s t : State) (j : Nat), s.Inv ∧ step s = .next t ∧ t.env.slots[j]? ≠ s.env.slots[j]?) := by
  refine ⟨let ⟨s, t, h, _, _, _, h', h''⟩ := steps_from_erase; ⟨s, t, h, h', h''⟩, ?_⟩
  exact ⟨runningState oneRound .vSlot (regsAt 1 0 0 zero32) [] [.reset left0], _, 0,
    running_inv (by decide) (by decide) trivial (by decide), rfl, by decide⟩

theorem witness_RequestsInPortForm :
    ∀ p ∈ [Phase.vRead, .vEraseDec, .vWriteDec, .vMacV, .vSlot, .vMacK, .vMacT, .vMacU],
      (runningState oneRound p (regsAt 1 0 0 zero32) [] []).Inv ∧
        (runningState oneRound p (regsAt 1 0 0 zero32) [] []).blk.outstanding ≠ none := by
  intro p hp
  have h : Fits oneRound p 0 0 ∧ phaseRequest oneRound (regsAt 1 0 0 zero32) p ≠ none := by
    simp only [List.mem_cons, List.not_mem_nil, or_false] at hp
    rcases hp with rfl | rfl | rfl | rfl | rfl | rfl | rfl | rfl <;> decide
  exact ⟨running_inv (by decide) (by decide) trivial h.1, h.2⟩

/-- The key changes where a success brings a new one. -/
theorem witness_HostSeesOnlyFinalKey : ∃ key : Bytes32,
    (let s := runningState oneRound .sMacFinal (regsAt 1 1 1 zero32) [] [.answer .ok];
      let s := s.setBlk { s.blk with rsp := { valid := false, status := 0x00, key := key } };
      s.Inv ∧ ∃ t, step s = .next t ∧ t.blk.rsp.key ≠ s.blk.rsp.key) := by
  obtain ⟨key, h⟩ := other (Config.mac zero32 [0x32])
  have hi : (runningState oneRound .sMacFinal (regsAt 1 1 1 zero32) [] [.answer .ok]).Inv :=
    running_inv (by decide) (by decide) trivial (by decide)
  obtain ⟨h1, h2, h3, h4, b1, b2, b3, b4, b5, b6, b7, b8, b9, b10, b11⟩ := hi
  refine ⟨key, ⟨h1, h2, h3, h4, b1, b2, b3, b4, b5, b6, b7, b8, fun h => (by cases h), Nat.zero_le 6,
    fun h0 => absurd rfl h0⟩, _, rfl, h⟩

theorem witness_SetupRunsToOk : (idleState oneRound [] [setupFrame] (allOk 10)).StartsAllOk setupFrame [] 10 [] ∧
    validSetup (some 4) pin4 sec0 = true := ⟨idle_starts (by decide) (by decide) trivial, by decide⟩

/-- DECODE of a one-round record with any tag. -/
theorem decode_one (cnt : Byte) (tag : Bytes32) (h : cnt.toNat ≤ 1) :
    decodeRecord 1 (encodeRecord { cnt := cnt, enc := [zero32], tag := tag }) =
      .ok { cnt := cnt, enc := [zero32], tag := tag } := by
  have hl : (encodeRecord { cnt := cnt, enc := [zero32], tag := tag }).length = 65 := encodeRecord_length _
  have hz : encodeRecord { cnt := cnt, enc := [zero32], tag := tag } =
      cnt :: (zero32.toList ++ tag.toList) := rfl
  have ht : bytes32 ((encodeRecord { cnt := cnt, enc := [zero32], tag := tag }).drop 33) = tag := bytes32_toList tag
  have he : blocksFrom 1 ((encodeRecord { cnt := cnt, enc := [zero32], tag := tag }).drop 1) = [zero32] :=
    congrArg (fun x => [x]) (bytes32_append zero32 tag.toList)
  unfold decodeRecord
  rw [if_neg (by rw [hl]; decide), if_neg (by rw [hz]; simpa using h), he, ht, hz]
  rfl

/-- A store with a one-round record of any tag. -/
abbrev storeTag (tag : Bytes32) : Memory := storeOf (encodeRecord { cnt := 1, enc := [zero32], tag := tag })

theorem storeTag_starts (tag : Bytes32) (n : Nat) :
    (idleState oneRound (storeTag tag) [verifyFrame] (allOk n)).StartsAllOk verifyFrame [] n [] := by
  refine idle_starts (by decide) (List.pairwise_singleton ..) ?_
  show (encodeRecord _).length ≤ 65
  rw [encodeRecord_length]
  exact (by decide : 65 ≤ 65)

theorem storeTag_decodes (tag : Bytes32) :
    decodeRecord 1 ((encodeRecord { cnt := 1, enc := [zero32], tag := tag }).take 65) =
      .ok { cnt := 1, enc := [zero32], tag := tag } := by
  rw [List.take_of_length_le (by rw [encodeRecord_length]; exact (by decide : 65 ≤ 65))]
  exact decode_one 1 tag (by decide)

/-- The candidate that PIN 01020304 gives from a fresh slot and a zero block. -/
def candidate : Bytes32 :=
  xor32 zero32 (Config.mac (Config.slotOut (1 - 1) .fresh (Config.mac zero32 pin4)) pin4)

theorem witness_VerifyMismatchRun : ∃ tag,
    (let s := idleState oneRound (storeTag tag) [verifyFrame] (allOk 7);
      s.StartsAllOk verifyFrame [] 7 [] ∧ validVerify (some 4) pin4 [] = true ∧
        s.store = .data (encodeRecord { cnt := 1, enc := [zero32], tag := tag }) ∧
        decodeRecord s.cfg.rounds ((encodeRecord { cnt := 1, enc := [zero32], tag := tag }).take s.cfg.recSize) =
          .ok { cnt := 1, enc := [zero32], tag := tag } ∧
        (1 : Byte) ≠ 0 ∧ s.env.slots[(1 : Byte).toNat - 1]? = some .fresh ∧ [zero32][(1 : Byte).toNat - 1]? = some zero32 ∧
        Config.mac candidate [0x00] ≠ tag) := by
  obtain ⟨tag, h⟩ := other (Config.mac candidate [0x00])
  exact ⟨tag, storeTag_starts tag 7, by decide, rfl, storeTag_decodes tag, by decide, rfl, rfl, h⟩

theorem witness_VerifyMatchRun :
    (let tag := Config.mac candidate [0x00];
      let s := idleState oneRound (storeTag tag) [verifyFrame] (allOk 11);
      0 + 1 = (1 : Byte).toNat ∧ s.StartsAllOk verifyFrame [] (s.cfg.rounds + 10 - 0) [] ∧
        validVerify (some 4) pin4 [] = true ∧
        s.store = .data (encodeRecord { cnt := 1, enc := [zero32], tag := tag }) ∧
        decodeRecord s.cfg.rounds ((encodeRecord { cnt := 1, enc := [zero32], tag := tag }).take s.cfg.recSize) =
          .ok { cnt := 1, enc := [zero32], tag := tag } ∧
        s.env.slots[0]? = some .fresh ∧ [zero32][0]? = some zero32) :=
  ⟨rfl, storeTag_starts _ 11, by decide, rfl, storeTag_decodes _, rfl, rfl⟩

/-- A two-round record with counter 1 and any tag. -/
abbrev lastAttempt (tag : Bytes32) : Record := { cnt := 1, enc := [zero32, zero32], tag := tag }

theorem lastAttempt_decodes (tag : Bytes32) :
    decodeRecord 2 ((encodeRecord (lastAttempt tag)).take 97) = .ok (lastAttempt tag) := by
  have hl : (encodeRecord (lastAttempt tag)).length = 97 := encodeRecord_length _
  have hz : encodeRecord (lastAttempt tag) = 1 :: (zero32.toList ++ (zero32.toList ++ tag.toList)) := rfl
  have ht : bytes32 ((encodeRecord (lastAttempt tag)).drop 65) = tag := bytes32_toList tag
  have he : blocksFrom 2 ((encodeRecord (lastAttempt tag)).drop 1) = [zero32, zero32] :=
    congrArg₂ (fun x y => [x, y]) (bytes32_append zero32 (zero32.toList ++ tag.toList))
      (bytes32_append zero32 tag.toList)
  rw [List.take_of_length_le (by rw [hl])]
  unfold decodeRecord
  rw [if_neg (by rw [hl]; decide), if_neg (by rw [hz]; exact (by decide : ¬ (1 : Byte).toNat > 2)), he, ht, hz]
  rfl

/-- A success at slot 0 of two: the re-commit range is not empty. -/
theorem witness_VerifyMatchRun_recommit :
    (let tag := Config.mac candidate [0x00];
      let s := idleState twoRounds (storeOf (encodeRecord (lastAttempt tag))) [verifyFrame] (allOk 12);
      0 + 1 = (lastAttempt tag).cnt.toNat ∧ s.StartsAllOk verifyFrame [] (s.cfg.rounds + 10 - 0) [] ∧
        s.store = .data (encodeRecord (lastAttempt tag)) ∧
        decodeRecord s.cfg.rounds ((encodeRecord (lastAttempt tag)).take s.cfg.recSize) = .ok (lastAttempt tag) ∧
        s.env.slots[0]? = some .fresh ∧ (lastAttempt tag).enc[0]? = some zero32 ∧ 0 + 2 ≤ s.cfg.rounds) := by
  refine ⟨rfl, idle_starts (by decide) (List.pairwise_singleton ..) ?_, rfl, lastAttempt_decodes _, rfl, rfl, by decide⟩
  show (encodeRecord _).length ≤ 97
  rw [encodeRecord_length]
  exact (by decide : 97 ≤ 97)

theorem witness_VerifyLockoutRun :
    (let s := idleState oneRound (storeOf (0 :: rest 1)) [verifyFrame] (allOk 1);
      s.StartsAllOk verifyFrame [] 1 [] ∧ validVerify (some 4) pin4 [] = true ∧ s.store = .data (0 :: rest 1) ∧
        decodeRecord s.cfg.rounds ((0 :: rest 1).take s.cfg.recSize) = .ok (Record.zero 1) ∧ (Record.zero 1).cnt = 0) :=
  ⟨idle_starts (by decide) (by decide) fits_one, by decide, rfl, by decide, rfl⟩

theorem witness_SetupThenVerifySucceeds :
    (idleState oneRound [] [setupFrame, verifyFrame] (allOk 21)).StartsAllOk setupFrame [verifyFrame] 21 [] ∧
    validSetup (some 4) pin4 sec0 = true := ⟨idle_starts (by decide) (by decide) trivial, by decide⟩

theorem witness_SetupForgetsThePast :
    (idleState oneRound [] [setupFrame] (allOk 10)).StartsAllOk setupFrame [] 10 [] ∧
    (idleState oneRound (storeOf (1 :: rest 1)) [setupFrame, [0x01]] (allOk 10)).StartsAllOk setupFrame [[0x01]] 10 [] ∧
    validSetup (some 4) pin4 sec0 = true :=
  ⟨idle_starts (by decide) (by decide) trivial, idle_starts (by decide) (by decide) fits_one, by decide⟩

/-- Inputs with a quiet step first, and with draws that answer some requests only. -/
abbrev slowInputs (n : Nat) : List Input :=
  .quiet :: .answer .alreadyErased :: .quiet :: .answer .wholeUnit :: allOk n

theorem witness_EveryCommandEnds :
    (let s := idleState oneRound [] [verifyFrame] (slowInputs 11);
      s.Inv ∧ s.Presents verifyFrame [] ∧ decode verifyFrame = .ok (.verify (some 4) pin4 []) ∧
        (∀ x ∈ slowInputs 11, x.isReset = false) ∧
        transactionBound s.cfg (.verify (some 4) pin4 []) ≤ (slowInputs 11).countP Input.surelyAnswers ∧
        s.inputs = slowInputs 11 ++ []) ∧
    (let s := idleState oneRound [] [setupFrame] (slowInputs 10);
      s.Presents setupFrame [] ∧ decode setupFrame = .ok (.setup (some 4) pin4 sec0) ∧
        transactionBound s.cfg (.setup (some 4) pin4 sec0) ≤ (slowInputs 10).countP Input.surelyAnswers) :=
  ⟨⟨idle_inv (by decide) (by decide) trivial, ⟨rfl, by decide, rfl, rfl, rfl⟩, by decide, by decide, by decide, rfl⟩,
    ⟨rfl, by decide, rfl, rfl, rfl⟩, by decide, by decide⟩

/-- A configuration whose unit can hold one byte more than the record. -/
def roomy : Cfg := { oneRound with storeUnitSize := 66 }

/-- VERIFY waits on its READ of a unit with these bytes. -/
abbrev reading (b : List Byte) (a : Answer) : State :=
  runningState roomy .vRead (regsAt 1 0 0 zero32) (storeOf b) [.answer a]

theorem witness_WrongLengthOrRangeFaults :
    ((reading (rest 1) .ok).Awaits .ok [] ∧ (rest 1).length < roomy.recSize) ∧
    ((reading (1 :: 0 :: rest 1) .wholeUnit).Awaits .wholeUnit [] ∧ roomy.recSize < (1 :: 0 :: rest 1).length) ∧
    ((reading (2 :: rest 1) .wholeUnit).Awaits .wholeUnit [] ∧ (2 :: rest 1).length = roomy.recSize ∧
      roomy.rounds < ((2 :: rest 1).getD 0 0).toNat) :=
  ⟨⟨running_awaits (by decide) (by decide) (by show 64 ≤ 66; decide) (by decide), by decide⟩,
    ⟨running_awaits (by decide) (by decide) (by show 66 ≤ 66; decide) (by decide), by decide⟩,
    running_awaits (by decide) (by decide) (by show 65 ≤ 66; decide) (by decide), by decide, by decide⟩

/-- R353, R74: a unit longer than the record, with a legal counter: the fault, or the first bytes. -/
theorem test_unit_longer_than_record :
    (nextOf toy (reading (1 :: 0 :: rest 1) .wholeUnit)).blk.faultCode = .protocol ∧
    (nextOf toy (reading (1 :: 0 :: rest 1) .ok)).blk.phase = .vEraseDec := by decide

/-- A reset right after an acceptance, which leaves the unit erased. -/
abbrev erasedThen : Residue := { unit := .erased, slot := .fresh }

theorem witness_PowerLossRightAfterAcceptance :
    (let s := idleState oneRound (storeOf [7]) [setupFrame, [0x01]] [.quiet, .reset erasedThen];
      s.Presents setupFrame [[0x01]] ∧ decode setupFrame = .ok (.setup (some 4) pin4 sec0) ∧
        validSetup (some 4) pin4 sec0 = true ∧ s.inputs = .quiet :: .reset erasedThen :: []) ∧
    (idleState oneRound [] [verifyFrame] [.quiet, .reset left0]).Presents verifyFrame [] ∧
    decode verifyFrame = .ok (.verify (some 4) pin4 []) ∧
    (idleState oneRound [] [[0x01]] [.quiet, .reset left0]).Presents [0x01] [] ∧
    decode [0x01] = .ok (.setup none [] []) ∧ validSetup none [] [] = false :=
  ⟨⟨⟨rfl, by decide, rfl, rfl, rfl⟩, by decide, by decide, rfl⟩, ⟨rfl, by decide, rfl, rfl, rfl⟩, by decide,
    ⟨rfl, by decide, rfl, rfl, rfl⟩, by decide, by decide⟩

/-- R313, R351: power is lost while SETUP's first ERASE is outstanding, and between a PARAM_ERROR and the next frame. -/
theorem test_reset_after_acceptance :
    (let s := nextOf toy (idleState oneRound (storeOf [7]) [setupFrame] [.quiet, .reset erasedThen]);
      s.blk.phase = .sErase ∧ (nextOf toy s).blk = Block.reset 1 ∧ (nextOf toy s).store = .erased) ∧
    (let s := nextOf toy (idleState oneRound [] [[0x01], verifyFrame] [.quiet, .reset left0]);
      s.blk.rsp.valid = true ∧ (nextOf toy s).blk = Block.reset 1 ∧ (nextOf toy s).host = [verifyFrame]) := by decide

end Sys2Proof.Tests
end

section
/-! PROOFS. What the steps of the invariant's proof share: the effect of one step on ENV and BLOCK, said once. -/

namespace Sys2Proof.Machine

/-! ## The effect of a request on ENV -/

/-- What a request, answered or interrupted, can make of ENV: nothing, or a change of the slot or the unit it names (R74 to
R76, R265, R351). -/
inductive Env.Touched (cfg : Cfg) (e : Env) : Option Request → Env → Prop
  | none (q : Option Request) : Touched cfg e q e
  | slot (i : Byte) (x : Bytes32) (st : SlotState) :
      Touched cfg e (some (.slot i x)) { e with slots := e.slots.set i.toNat st }
  | erase (a : Nat) : Touched cfg e (some (.erase a)) { e with mem := e.mem.erase a }
  | writeErased (a : Nat) (b : List Byte) : Touched cfg e (some (.write a b)) { e with mem := e.mem.erase a }
  | write (a : Nat) (b l : List Byte) (hl : l = b ∨ l.length ≤ cfg.storeUnitSize) :
      Touched cfg e (some (.write a b)) { e with mem := e.mem.write a l }

variable {c : Collaborators} {cfg : Cfg} {e e' : Env} {b b' : Block} {q : Option Request}

/-- A failed or interrupted ERASE (R75, R351). -/
theorem Env.touched_afterBadErase (a : Nat) (u : UnitResidue) :
    e.Touched cfg (some (.erase a)) { e with mem := afterBadErase e.mem a u } := by
  cases u with
  | erased => exact .erase a
  | unchanged => exact .none _
  | data _ => exact .none _

/-- A failed or interrupted WRITE (R76, R351). -/
theorem Env.touched_leaveUnit (a : Nat) (l : List Byte) (u : UnitResidue) :
    e.Touched cfg (some (.write a l)) { e with mem := leaveUnit cfg e.mem a u } := by
  cases u with
  | erased => exact .writeErased a l
  | unchanged => exact .none _
  | data l' => exact .write a l _ (.inr (List.length_take_le _ _))

theorem envAnswer_touched {req : Request} {a : Answer} {r : Response}
    (h : envAnswer c cfg e req a = .answered r e') : e.Touched cfg (some req) e' := by
  cases req with
  | mac key msg =>
    obtain ⟨rfl, -⟩ := envAnswer_mac h
    exact .none _
  | slot i x =>
    obtain ⟨st, -, -, -, rfl⟩ | ⟨st, -, rfl⟩ := envAnswer_slot h
    · exact .slot i x _
    · exact .slot i x _
  | read ad n =>
    obtain ⟨rfl, -⟩ := envAnswer_read h
    exact .none _
  | erase ad =>
    obtain ⟨l, -, -, -, rfl⟩ | ⟨-, rfl⟩ | ⟨u, -, rfl⟩ := envAnswer_erase h
    · exact .erase ad
    · exact .none _
    · exact Env.touched_afterBadErase ad u
  | write ad l =>
    obtain ⟨-, -, rfl⟩ | ⟨u, -, rfl⟩ := envAnswer_write h
    · exact .write ad l l (.inl rfl)
    · exact Env.touched_leaveUnit ad l u

theorem Env.interrupted_touched (q : Option Request) (left : Residue) :
    e.Touched cfg q (e.interrupted cfg q left) := by
  cases q with
  | none => exact .none _
  | some req =>
    cases req with
    | mac _ _ => exact .none _
    | read _ _ => exact .none _
    | slot i x => exact .slot i x _
    | erase a => exact Env.touched_afterBadErase a _
    | write a l => exact Env.touched_leaveUnit a l _

theorem Env.Touched.wf (h : e.Touched cfg q e') (hm : e.mem.wf) : e'.mem.wf := by
  cases h with
  | none => exact hm
  | slot => exact hm
  | erase a => exact Memory.wf_erase a hm
  | writeErased a => exact Memory.wf_erase a hm
  | write a _ l => exact Memory.wf_write a l hm

theorem Env.Touched.slots_length (h : e.Touched cfg q e') : e'.slots.length = e.slots.length := by
  cases h with
  | slot => exact List.length_set
  | _ => rfl

/-- Only a slot request for slot `j` changes slot `j`. -/
theorem Env.Touched.slot_requested (h : e.Touched cfg q e') {j : Nat} (hj : e'.slots[j]? ≠ e.slots[j]?) :
    ∃ i x, q = some (.slot i x) ∧ i.toNat = j := by
  cases h with
  | slot i x st =>
    refine ⟨i, x, rfl, ?_⟩
    by_contra hij
    exact hj (List.getElem?_set_ne hij)
  | _ => exact absurd rfl hj

/-- Only an ERASE or a WRITE of the unit at `a` changes that unit. -/
theorem Env.Touched.unit_requested (h : e.Touched cfg q e') {a : Nat} (ha : e'.mem.unit a ≠ e.mem.unit a) :
    q = some (.erase a) ∨ ∃ l, q = some (.write a l) := by
  cases h with
  | none => exact absurd rfl ha
  | slot => exact absurd rfl ha
  | erase a' =>
    obtain rfl : a = a' := not_not.1 fun hn => ha (Memory.unit_erase_other _ hn)
    exact .inl rfl
  | writeErased a' l =>
    obtain rfl : a = a' := not_not.1 fun hn => ha (Memory.unit_erase_other _ hn)
    exact .inr ⟨l, rfl⟩
  | write a' l _ _ =>
    obtain rfl : a = a' := not_not.1 fun hn => ha (Memory.unit_write_other _ _ hn)
    exact .inr ⟨l, rfl⟩

/-- A unit stays within `STORE_UNIT_SIZE` where the bytes asked for do (R44). -/
theorem Env.Touched.unit_fits (h : e.Touched cfg q e')
    (hq : ∀ a l, q = some (.write a l) → l.length ≤ cfg.storeUnitSize) {a : Nat} (hf : (e.mem.unit a).fits cfg) :
    (e'.mem.unit a).fits cfg := by
  by_cases ha : e'.mem.unit a = e.mem.unit a
  · rwa [ha]
  · cases h with
    | none => exact hf
    | slot => exact hf
    | erase a' =>
      obtain rfl : a = a' := not_not.1 fun hn => ha (Memory.unit_erase_other _ hn)
      rw [Memory.unit_erase_same]
      trivial
    | writeErased a' =>
      obtain rfl : a = a' := not_not.1 fun hn => ha (Memory.unit_erase_other _ hn)
      rw [Memory.unit_erase_same]
      trivial
    | write a' l' l hl =>
      obtain rfl : a = a' := not_not.1 fun hn => ha (Memory.unit_write_other _ _ hn)
      rw [Memory.unit_write_same]
      obtain rfl | hl := hl
      · exact hq _ _ rfl
      · exact hl

/-! ## The requests of the phases -/

/-- Every ERASE goes to `RECORD_ADDR` (R268). -/
theorem phaseRequest_erase {r : Regs} {p : Phase} {a : Nat} (h : phaseRequest cfg r p = some (.erase a)) :
    a = cfg.recordAddr := by
  cases p <;> simp_all [phaseRequest]

/-- Every WRITE goes to `RECORD_ADDR`, with the record of `REC` (R269). -/
theorem phaseRequest_write {r : Regs} {p : Phase} {a : Nat} {l : List Byte}
    (h : phaseRequest cfg r p = some (.write a l)) : a = cfg.recordAddr ∧ l = encodeRecord r.record := by
  cases p <;> simp_all [phaseRequest]

/-- Every slot request is for a slot of the bank, where the counters stand as its phase needs them (R266). -/
theorem phaseRequest_slot {r : Regs} {p : Phase} {i : Byte} {x : Bytes32}
    (h : phaseRequest cfg r p = some (.slot i x)) (hc : countersFit cfg.rounds r p) : i.toNat < cfg.rounds := by
  cases p with
  | sSlotA | sSlotB | sSlotC =>
    cases h
    exact hc.2
  | vSlot =>
    cases h
    exact hc
  | vRecommit =>
    cases h
    have := hc.2
    omega
  | _ => cases h

/-- Something is outstanding only while a command runs (R40). -/
theorem Block.Inv.running_of_outstanding (h : b.Inv cfg) {req : Request} (ho : b.outstanding = some req) :
    b.phase.running = true := by
  rw [Phase.running_iff]
  have hw := h.waits
  constructor <;> intro hp <;> rw [hp, ho] at hw <;> cases hw

/-! ## The effect of a step on ENV and BLOCK -/

/-- The PIN of a valid SETUP frame has a legal length (R104). -/
theorem validSetup_pin {plen : Option Byte} {pin sec : List Byte} (h : validSetup plen pin sec = true) :
    pinMin ≤ pin.length ∧ pin.length ≤ pinMax ∧ pin.length = (plen.getD 0).toNat := by
  cases plen with
  | none => cases h
  | some n =>
    obtain ⟨h4, h8, hn, -⟩ := validSetup_iff.1 h
    exact ⟨hn ▸ h4, hn ▸ h8, hn⟩

/-- The PIN of a valid VERIFY frame has a legal length (R104). -/
theorem validVerify_pin {plen : Option Byte} {pin excess : List Byte} (h : validVerify plen pin excess = true) :
    pinMin ≤ pin.length ∧ pin.length ≤ pinMax ∧ pin.length = (plen.getD 0).toNat := by
  cases plen with
  | none => cases h
  | some n =>
    obtain ⟨h4, h8, hn, -⟩ := validVerify_iff.1 h
    exact ⟨hn ▸ h4, hn ▸ h8, hn⟩

/-- Everything one step can make of ENV and BLOCK: they hold, are reset, the block takes a frame, or it handles one
response (R260, R317, R350). -/
inductive Moves (c : Collaborators) (cfg : Cfg) (e : Env) (b : Block) : Env → Block → Prop
  | hold : Moves c cfg e b e b
  | reset (left : Residue) : Moves c cfg e b (e.interrupted cfg b.outstanding left) (Block.reset cfg.rounds)
  | setup (hp : b.phase = .idle) {n : Byte} {pin : List Byte} (s : Bytes32) (h4 : pinMin ≤ pin.length)
      (h8 : pin.length ≤ pinMax) (hn : pin.length = n.toNat) :
      Moves c cfg e b e ((b.accept.setRegs ((b.regs.loadPin n pin).setS s)).memErase cfg .sErase)
  | verify (hp : b.phase = .idle) {n : Byte} {pin : List Byte} (h4 : pinMin ≤ pin.length)
      (h8 : pin.length ≤ pinMax) (hn : pin.length = n.toNat) :
      Moves c cfg e b e ((b.accept.setRegs (b.regs.loadPin n pin)).memRead cfg .vRead)
  | reject (hp : b.phase = .idle) : Moves c cfg e b e (b.accept.raise .paramError)
  | answer {req : Request} {a : Answer} {r : Response} {e' : Env} {b' : Block} (ho : b.outstanding = some req)
      (he : envAnswer c cfg e req a = .answered r e') (hb : Advance cfg b r b') : Moves c cfg e b e' b'

/-- A command leaves CFG and ENV, and the block takes it, rejects it, or holds. -/
theorem exec_moves {s t : State} {i : Instr} (h : exec i s = .next t) :
    t.cfg = s.cfg ∧ Moves c s.cfg s.env s.blk t.env t.blk := by
  cases i with
  | setup plen pin sec =>
    obtain ⟨-, rfl⟩ | ⟨hp, hv, rfl⟩ | ⟨hp, -, rfl⟩ := execSetup_next h
    · exact ⟨rfl, .hold⟩
    · obtain ⟨h4, h8, hn⟩ := validSetup_pin hv
      exact ⟨rfl, .setup hp _ h4 h8 hn⟩
    · exact ⟨rfl, .reject hp⟩
  | verify plen pin excess =>
    obtain ⟨-, rfl⟩ | ⟨hp, hv, rfl⟩ | ⟨hp, -, rfl⟩ := execVerify_next h
    · exact ⟨rfl, .hold⟩
    · obtain ⟨h4, h8, hn⟩ := validVerify_pin hv
      exact ⟨rfl, .verify hp h4 h8 hn⟩
    · exact ⟨rfl, .reject hp⟩

theorem acceptNext_moves {s t : State} (h : acceptNext s = .next t) :
    t.cfg = s.cfg ∧ Moves c s.cfg s.env s.blk t.env t.blk := by
  obtain rfl | ⟨f, fs, i, -, -, h⟩ | ⟨f, fs, err, -, -, rfl⟩ := acceptNext_next h
  · exact ⟨rfl, .hold⟩
  · exact exec_moves (s := s.setHost fs) h
  · exact ⟨rfl, .hold⟩

/-- No step changes CFG, and what it makes of ENV and BLOCK is one of `Moves`. -/
theorem systemStep_moves {s t : State} (h : systemStep c s = .next t) :
    t.cfg = s.cfg ∧ Moves c s.cfg s.env s.blk t.env t.blk := by
  obtain ⟨-, rfl⟩ | ⟨-, ⟨left, is, -, rfl⟩ | ⟨-, h⟩ | ⟨-, rfl⟩ | ⟨a, is, -, -, h⟩⟩ := systemStep_next h
  · exact ⟨rfl, .hold⟩
  · exact ⟨rfl, .reset left⟩
  · exact acceptNext_moves (s := s.passQuiet) h
  · exact ⟨rfl, .hold⟩
  · obtain rfl | ⟨req, r, e, b, ho, he, hb, rfl⟩ := answerNext_next h
    · exact ⟨rfl, .hold⟩
    · exact ⟨rfl, .answer ho he (resume_advance hb)⟩

/-- Whatever a step makes of ENV, the outstanding request asked for it (R84). -/
theorem Moves.touched (h : Moves c cfg e b e' b') : e.Touched cfg b.outstanding e' := by
  cases h with
  | reset left => exact Env.interrupted_touched _ left
  | answer ho he _ => exact ho ▸ envAnswer_touched he
  | _ => exact .none _

end Sys2Proof.Machine
end

section
/-! PROOFS. The block's invariant over a RESPONSE step, phase by phase. -/

namespace Sys2Proof.Machine

variable {c : Collaborators} {cfg : Cfg} {b b' : Block} {r : Regs} {p : Phase} {req : Request}

/-! ## What the block's lines answer -/

theorem setupAfterMacK_ok {k : Bytes32} (h : setupAfterMacK cfg b k = .ok b') :
    b.regs.idx.toNat < b.regs.record.enc.length ∧ b' = setupLoop cfg (b.setRegs
      (((b.regs.setK k).setRecord (b.regs.record.setEnc b.regs.idx.toNat (xor32 b.regs.s k))).setIdx
        (b.regs.idx + 1))) := by
  unfold setupAfterMacK at h
  split at h
  · exact ⟨‹_›, (Except.ok.inj h).symm⟩
  · cases h

theorem verifyAfterMacK_ok {k : Bytes32} (h : verifyAfterMacK b k = .ok b') :
    ∃ x, b.regs.record.enc[b.regs.record.cnt.toNat]? = some x ∧
      b' = (b.setRegs ((b.regs.setK k).setS (xor32 x k))).macReq .vMacT (xor32 x k) labelTag := by
  unfold verifyAfterMacK at h
  split at h
  · cases h
  · exact ⟨_, ‹_›, (Except.ok.inj h).symm⟩

/-- VERIFY's READ ends in a fault, in the lockout, or at the erase request with the counter decremented (R183 to R185). -/
theorem verifyAfterRead_cases (cfg : Cfg) (b : Block) (l : List Byte) :
    (∃ f, f ≠ .none ∧ verifyAfterRead cfg b l = b.raiseFault f) ∨
      ∃ rec, decodeRecord cfg.rounds l = .ok rec ∧
        (verifyAfterRead cfg b l = (b.setRegs (b.regs.setRecord rec)).raise .authFailure ∨
          rec.cnt ≠ 0 ∧
            verifyAfterRead cfg b l = (b.setRegs (b.regs.setRecord rec.dec)).memErase cfg .vEraseDec) := by
  unfold verifyAfterRead
  split
  · rename_i f hf
    refine .inl ⟨f, ?_, rfl⟩
    obtain rfl | rfl := decodeRecord_error hf
    · decide
    · decide
  · rename_i rec hr
    refine .inr ⟨rec, hr, ?_⟩
    split
    · exact .inl rfl
    · rename_i h0
      exact .inr ⟨fun hc => h0 ((lockedOut_iff rec).2 hc), rfl⟩

/-- VERIFY's tag test goes on to step 11a, or ends the command (R189 to R191). -/
theorem verifyAfterMacT_cases (b : Block) (t : Bytes32) :
    verifyAfterMacT b t = (b.setRegs (b.regs.setT t)).macReq .vMacU b.regs.s labelRekey ∨
      verifyAfterMacT b t = (b.setRegs (b.regs.setT t)).raise .authFailure := by
  unfold verifyAfterMacT
  split
  · exact .inl rfl
  · exact .inr rfl

/-! ## The invariant in parts -/

/-- `REC` has `ROUNDS` blocks and a counter in 0..`ROUNDS` (R36). -/
structure Record.Fits (rounds : Nat) (rec : Record) : Prop where
  encCount : rec.enc.length = rounds
  cntRange : rec.cnt.toNat ≤ rounds

theorem Record.Fits.load {rounds : Nat} {rec : Record} (h : rec.Fits rounds) (hr : rounds ≤ 128) :
    (rec.load rounds).Fits rounds := ⟨h.encCount, (toNat_rounds hr).le⟩

theorem Record.Fits.setEnc {rounds : Nat} {rec : Record} (h : rec.Fits rounds) (i : Nat) (x : Bytes32) :
    (rec.setEnc i x).Fits rounds := ⟨List.length_set.trans h.encCount, h.cntRange⟩

/-- The decrement of a counter that is not zero stays below `ROUNDS` (R184, R185). -/
theorem Record.Fits.dec_lt {rounds : Nat} {rec : Record} (h : rec.Fits rounds) (h0 : rec.cnt ≠ 0) :
    rec.dec.cnt.toNat < rounds := by
  have hdec : rec.dec.cnt.toNat = rec.cnt.toNat - 1 := toNat_dec h0
  have hpos : 0 < rec.cnt.toNat := Nat.pos_of_ne_zero fun hz => h0 (BitVec.eq_of_toNat_eq hz)
  have := h.cntRange
  omega

theorem decodeRecord_fits {rounds : Nat} {l : List Byte} {rec : Record} (h : decodeRecord rounds l = .ok rec) :
    rec.Fits rounds := ⟨decodeRecord_enc_length h, (decodeRecord_ok h).2.1⟩

/-- The register file of a running command, in every phase (R33, R34, R36). -/
structure Regs.Ready (cfg : Cfg) (r : Regs) : Prop where
  record : r.record.Fits cfg.rounds
  idxRange : r.idx.toNat ≤ cfg.rounds
  pin : r.pinHeld

/-- The host's registers while a command runs: no fault, no response, and what the last command left in it (R37, R38,
R317). -/
structure Block.Busy (b : Block) : Prop where
  noFault : b.faultCode = .none
  notValid : b.rsp.valid = false
  statusCode : b.rsp.status.toNat ≤ 6
  noKey : b.rsp.status ≠ Status.code .ok → b.rsp.status ≠ Status.code .authSuccess → b.rsp.key = zero32

theorem Block.Inv.ready (h : b.Inv cfg) (hr : b.phase.running = true) : b.regs.Ready cfg :=
  ⟨⟨h.encCount, h.cntRange⟩, h.idxRange, h.pin hr⟩

/-- Where the counters stand in a phase. -/
theorem Block.Inv.countersIn (h : b.Inv cfg) (hp : b.phase = p) : countersFit cfg.rounds b.regs p := hp ▸ h.counters

theorem Block.Inv.busy (h : b.Inv cfg) (hr : b.phase.running = true) : b.Busy :=
  have hp := (Phase.running_iff _).1 hr
  ⟨h.noFault hp.2, h.notValid hp.1, h.statusCode, h.noKey⟩

theorem Block.Inv.noFault_of_idle (h : b.Inv cfg) (hp : b.phase = .idle) : b.faultCode = .none :=
  h.noFault (by simp [hp])

theorem Block.Inv.accept_busy (h : b.Inv cfg) (hp : b.phase = .idle) : b.accept.Busy :=
  ⟨h.noFault_of_idle hp, rfl, h.statusCode, h.noKey⟩

/-- A loaded PIN of legal length is held (R34, R103). -/
theorem Regs.pinHeld_loadPin {n : Byte} {pin : List Byte} (r : Regs) (h4 : pinMin ≤ pin.length)
    (h8 : pin.length ≤ pinMax) (hn : pin.length = n.toNat) : (r.loadPin n pin).pinHeld := by
  have hd := pinPadded_drop pin
  rw [hn] at h4 h8 hd
  exact ⟨h4, h8, hd⟩

/-- The registers of an accepted command: those of IDLE, and the PIN (R103). -/
theorem Block.Inv.ready_loadPin (h : b.Inv cfg) {n : Byte} {pin : List Byte} (h4 : pinMin ≤ pin.length)
    (h8 : pin.length ≤ pinMax) (hn : pin.length = n.toNat) : (b.regs.loadPin n pin).Ready cfg :=
  ⟨⟨h.encCount, h.cntRange⟩, h.idxRange, Regs.pinHeld_loadPin _ h4 h8 hn⟩

/-! ## The ways a step of the block ends -/

theorem Record.zero_fits (rounds : Nat) : (Record.zero rounds).Fits rounds := ⟨List.length_replicate, Nat.zero_le _⟩

theorem Block.reset_inv (cfg : Cfg) : (Block.reset cfg.rounds).Inv cfg where
  encCount := (Record.zero_fits _).encCount
  cntRange := Nat.zero_le _
  idxRange := Nat.zero_le _
  counters := trivial
  waits := rfl
  pin := nofun
  quiet _ := rfl
  faultIff := ⟨fun h => absurd rfl h, nofun⟩
  validIdle := nofun
  statusCode := Nat.zero_le _
  noKey _ _ := rfl

/-- The codes of R107 are 0 to 6. -/
theorem Status.code_le (st : Status) : st.code.toNat ≤ 6 := by cases st <;> decide

/-- A command that ends with a status (R273). -/
theorem Block.complete_inv (henc : b.regs.record.enc.length = cfg.rounds) (hf : b.faultCode = .none) (st : Status)
    (key : Bytes32) (hk : st ≠ .ok → st ≠ .authSuccess → key = zero32) : (b.complete st key).Inv cfg := by
  rw [Block.complete_eq henc, hf]
  exact {
    encCount := (Record.zero_fits _).encCount
    cntRange := Nat.zero_le _
    idxRange := Nat.zero_le _
    counters := trivial
    waits := rfl
    pin := nofun
    quiet := fun _ => rfl
    faultIff := ⟨fun h => absurd rfl h, nofun⟩
    validIdle := fun _ => rfl
    statusCode := st.code_le
    noKey := fun h0 h1 => hk (mt (congrArg Status.code) h0) (mt (congrArg Status.code) h1) }

/-- A command that ends with an error (R303). -/
theorem Block.raise_inv (henc : b.regs.record.enc.length = cfg.rounds) (hf : b.faultCode = .none) (x : CmdError) :
    (b.raise x).Inv cfg := Block.complete_inv henc hf _ _ fun _ _ => rfl

/-- A fault (R307). -/
theorem Block.Busy.raiseFault_inv (h : b.Busy) (henc : b.regs.record.enc.length = cfg.rounds) {f : FaultCode}
    (hf : f ≠ .none) : (b.raiseFault f).Inv cfg := by
  have hz : (b.raiseFault f).regs = Regs.zero cfg.rounds := by rw [Block.raiseFault_regs, henc]
  exact {
    encCount := hz ▸ (Record.zero_fits _).encCount
    cntRange := Nat.zero_le _
    idxRange := Nat.zero_le _
    counters := trivial
    waits := rfl
    pin := nofun
    quiet := fun _ => hz
    faultIff := ⟨fun _ => rfl, fun _ => hf⟩
    validIdle := fun hv => absurd hv (by simp [h.notValid])
    statusCode := h.statusCode
    noKey := h.noKey }

/-- A command that goes on to its next transaction (R260). -/
theorem Block.Busy.await_inv (h : b.Busy) (hr : r.Ready cfg) (hc : countersFit cfg.rounds r p)
    (hp : p.running = true) (hq : phaseRequest cfg r p = some req) : ((b.setRegs r).await p req).Inv cfg where
  encCount := hr.record.encCount
  cntRange := hr.record.cntRange
  idxRange := hr.idxRange
  counters := hc
  waits := hq.symm
  pin _ := hr.pin
  quiet h0 := absurd (hp.symm.trans h0) (by decide)
  faultIff := ⟨fun h0 => absurd h.noFault h0, fun h0 => absurd h0 ((Phase.running_iff p).1 hp).2⟩
  validIdle hv := absurd (h.notValid.symm.trans hv) (by decide)
  statusCode := h.statusCode
  noKey := h.noKey

/-- The loop of SETUP goes on, or ends at the WRITE (R145, R150). -/
theorem Block.Busy.setupLoop_inv (h : b.Busy) (hr : r.Ready cfg) (hc : r.record.cnt.toNat = cfg.rounds) :
    (setupLoop cfg (b.setRegs r)).Inv cfg := by
  by_cases hi : r.idx.toNat < cfg.rounds
  · rw [setupLoop_more hi]
    exact h.await_inv hr ⟨hc, hi⟩ rfl rfl
  · rw [setupLoop_done hi]
    exact h.await_inv hr hc rfl rfl

/-- The re-commit loop goes on, or ends at the ERASE with the counter reset (R192, R193). -/
theorem Block.Busy.recommitLoop_inv (h : b.Busy) (hl : cfg.legal) (hr : r.Ready cfg)
    (hc : r.record.cnt.toNat ≤ r.idx.toNat) : (recommitLoop cfg (b.setRegs r)).Inv cfg := by
  by_cases hi : r.idx.toNat + 2 ≤ cfg.rounds
  · rw [recommitLoop_more hi]
    exact h.await_inv hr ⟨hc, hi⟩ rfl rfl
  · rw [recommitLoop_done hi]
    exact h.await_inv { hr with record := hr.record.load hl.2.1 } (toNat_rounds hl.2.1) rfl rfl

/-! ## The RESPONSE step -/

/-- VERIFY's READ keeps the invariant (R183 to R185). -/
theorem verifyAfterRead_inv (hb : b.Busy) (hr : b.regs.Ready cfg) (l : List Byte) :
    (verifyAfterRead cfg b l).Inv cfg := by
  obtain ⟨f, hf, heq⟩ | ⟨rec, hrec, heq | ⟨h0, heq⟩⟩ := verifyAfterRead_cases cfg b l
  · rw [heq]
    exact hb.raiseFault_inv hr.record.encCount hf
  · rw [heq]
    exact Block.raise_inv (b := b.setRegs (b.regs.setRecord rec)) (decodeRecord_fits hrec).encCount hb.noFault _
  · rw [heq]
    have hfit := decodeRecord_fits hrec
    have hlt := hfit.dec_lt h0
    exact hb.await_inv (r := b.regs.setRecord rec.dec) { hr with record := ⟨hfit.encCount, hlt.le⟩ } hlt rfl rfl

/-- Every RESPONSE step of a running command keeps the block's invariant. -/
theorem Advance.inv {x : Response} (h : Advance cfg b x b') (hl : cfg.legal) (hi : b.Inv cfg)
    (hrun : b.phase.running = true) : b'.Inv cfg := by
  have hb := hi.busy hrun
  have hr := hi.ready hrun
  have hraise := Block.raise_inv hi.encCount hb.noFault
  have hn : (BitVec.ofNat 8 cfg.rounds).toNat = cfg.rounds := toNat_rounds hl.2.1
  cases h with
  | cryptoFail | hwFail | readFail | eraseFail | writeFail | notErased => exact hraise _
  | sErase h => exact hb.await_inv { hr with record := hr.record.load hl.2.1 } hn rfl rfl
  | sMacTag h t => exact hb.await_inv { hr with record := ⟨hi.encCount, hi.cntRange⟩ } (hi.countersIn h :) rfl rfl
  | sMacU h u => exact hb.await_inv { hr with } (hi.countersIn h :) rfl rfl
  | sMacV h v => exact hb.setupLoop_inv { hr with idxRange := Nat.zero_le _ } (hi.countersIn h :)
  | sSlotA h o => exact hb.await_inv hr (hi.countersIn h :) rfl rfl
  | sSlotB h w => exact hb.await_inv { hr with } (hi.countersIn h :) rfl rfl
  | sSlotC h o => exact hb.await_inv hr (hi.countersIn h :) rfl rfl
  | sMacK h k _ hk =>
    obtain ⟨hcnt, hidx⟩ := hi.countersIn h
    obtain ⟨-, rfl⟩ := setupAfterMacK_ok hk
    have hnext : (b.regs.idx + 1).toNat = b.regs.idx.toNat + 1 := toNat_succ (by omega)
    exact hb.setupLoop_inv { hr with record := hr.record.setEnc _ _, idxRange := hnext.trans_le hidx } hcnt
  | sWrite h => exact hb.await_inv hr (hi.countersIn h :) rfl rfl
  | sMacFinal h fk => exact Block.complete_inv hi.encCount hb.noFault _ _ fun h0 _ => absurd rfl h0
  | vRead h l => exact verifyAfterRead_inv hb hr l
  | vEraseDec h => exact hb.await_inv hr (hi.countersIn h :) rfl rfl
  | vWriteDec h => exact hb.await_inv hr (hi.countersIn h :) rfl rfl
  | vMacV h v => exact hb.await_inv { hr with } (hi.countersIn h :) rfl rfl
  | vSlot h w => exact hb.await_inv { hr with } (hi.countersIn h :) rfl rfl
  | vMacK h k _ hk =>
    obtain ⟨x, -, rfl⟩ := verifyAfterMacK_ok hk
    -- an opaque block: the unifier would otherwise compare its bytes
    generalize xor32 x k = y
    exact hb.await_inv { hr with } (hi.countersIn h :) rfl rfl
  | vMacT h t =>
    obtain heq | heq := verifyAfterMacT_cases b t
    · rw [heq]
      exact hb.await_inv { hr with } (hi.countersIn h :) rfl rfl
    · rw [heq]
      exact Block.raise_inv hi.encCount hb.noFault _
  | vMacU h u => exact hb.recommitLoop_inv hl { hr with idxRange := hi.cntRange } le_rfl
  | vRecommit h o =>
    obtain ⟨hcnt, hidx⟩ := hi.countersIn h
    have hnext : (b.regs.idx + 1).toNat = b.regs.idx.toNat + 1 := toNat_succ (by omega)
    exact hb.recommitLoop_inv hl { hr with idxRange := hnext.trans_le (by omega) }
      (hcnt.trans (hnext.symm ▸ Nat.le_succ _))
  | vEraseRst h => exact hb.await_inv hr (hi.countersIn h :) rfl rfl
  | vWriteRst h => exact hb.await_inv hr (hi.countersIn h :) rfl rfl
  | vMacFinal h fk => exact Block.complete_inv hi.encCount hb.noFault _ _ fun _ h0 => absurd rfl h0

/-- Every step keeps the block's invariant. -/
theorem Moves.inv {e e' : Env} (h : Moves c cfg e b e' b') (hl : cfg.legal) (hi : b.Inv cfg) : b'.Inv cfg := by
  cases h with
  | hold => exact hi
  | reset _ => exact Block.reset_inv cfg
  | setup hp s h4 h8 hn =>
    exact (hi.accept_busy hp).await_inv { hi.ready_loadPin h4 h8 hn with } trivial rfl rfl
  | verify hp h4 h8 hn => exact (hi.accept_busy hp).await_inv (hi.ready_loadPin h4 h8 hn) trivial rfl rfl
  | reject hp => exact Block.raise_inv hi.encCount (hi.accept_busy hp).noFault _
  | answer ho _ hb => exact hb.inv hl hi (hi.running_of_outstanding ho)

/-- The bytes of an outstanding WRITE fit the unit (R31, R269). -/
theorem Block.Inv.write_fits (h : b.Inv cfg) (hl : cfg.legal) {a : Nat} {l : List Byte}
    (ho : b.outstanding = some (.write a l)) : l.length ≤ cfg.storeUnitSize := by
  obtain ⟨-, rfl⟩ := phaseRequest_write (h.waits.symm.trans ho)
  rw [encodeRecord_length, h.encCount]
  exact hl.2.2

/-- Settles O43: the block's part by the phases of the RESPONSE step, ENV's part by what the outstanding request can touch. -/
theorem everyStepKeepsInv : Obligations.EveryStepKeepsInv := by
  intro s t hs h
  obtain ⟨hcfg, hm⟩ := systemStep_moves h
  have ht := hm.touched
  exact {
    legal := hcfg ▸ hs.legal
    memWf := ht.wf hs.memWf
    unitFits := by
      unfold State.store
      rw [hcfg]
      exact ht.unit_fits (fun _ _ ho => hs.block.write_fits hs.legal ho) hs.unitFits
    slotCount := by rw [hcfg, ht.slots_length, hs.slotCount]
    block := hcfg ▸ hm.inv hs.legal hs.block }

end Sys2Proof.Machine
end

section
/-! PROOFS. From a state of the invariant no step stops. -/

namespace Sys2Proof.Machine

variable {c : Collaborators} {cfg : Cfg} {e : Env} {b : Block} {r : Response}

/-! ## Every response is one of its port -/

/-- The responses of a request's port (R110). -/
def Request.Answered : Request → Response → Prop
  | .mac _ _, r => (∃ t, r = .macOk t) ∨ r = .cryptoFail
  | .slot _ _, r => (∃ o, r = .slotOk o) ∨ r = .hwFail
  | .read _ _, r => (∃ l, r = .readOk l) ∨ r = .readFail
  | .erase _, r => r = .eraseOk ∨ r = .alreadyErased ∨ r = .eraseFail
  | .write _ _, r => r = .writeOk ∨ r = .writeFail

theorem envAnswer_answered {req : Request} {a : Answer} {e' : Env} (h : envAnswer c cfg e req a = .answered r e') :
    req.Answered r := by
  cases req with
  | mac key msg =>
    obtain ⟨-, ⟨-, hr⟩ | hr⟩ := envAnswer_mac h
    · exact .inl ⟨_, hr⟩
    · exact .inr hr
  | slot i x =>
    obtain ⟨_, -, -, hr, -⟩ | ⟨_, hr, -⟩ := envAnswer_slot h
    · exact .inl ⟨_, hr⟩
    · exact .inr hr
  | read ad n =>
    obtain ⟨-, ⟨_, -, ⟨-, hr⟩ | ⟨-, hr⟩⟩ | hr⟩ := envAnswer_read h
    · exact .inl ⟨_, hr⟩
    · exact .inl ⟨_, hr⟩
    · exact .inr hr
  | erase ad =>
    obtain ⟨_, -, -, hr, -⟩ | ⟨hr, -⟩ | ⟨_, hr, -⟩ := envAnswer_erase h
    · exact .inl hr
    · exact .inr (.inl hr)
    · exact .inr (.inr hr)
  | write ad l =>
    obtain ⟨-, hr, -⟩ | ⟨_, hr, -⟩ := envAnswer_write h
    · exact .inl hr
    · exact .inr hr

/-- The environment stops only at a slot outside the bank (R266). -/
theorem envAnswer_ne_fault {req : Request} (hs : ∀ i x, req = .slot i x → i.toNat < e.slots.length) (a : Answer)
    (f : Fault) : envAnswer c cfg e req a ≠ .fault f := by
  intro h
  cases a with
  | ok =>
    cases req with
    | slot i x =>
      simp [envAnswer, serve, List.getElem?_eq_getElem (hs i x rfl)] at h
    | mac key msg => cases h
    | write ad l => cases h
    | read ad n =>
      simp only [envAnswer, serve] at h
      split at h <;> cases h
    | erase ad =>
      simp only [envAnswer, serve] at h
      split at h <;> cases h
  | alreadyErased => cases req <;> cases h
  | wholeUnit =>
    cases req with
    | read ad n =>
      simp only [envAnswer, serveWhole] at h
      split at h <;> cases h
    | _ => cases h
  | fail left => cases h

/-! ## The block handles every response of the port it waits on -/

theorem onMac_total {k : Bytes32 → Except Fault Block} (hr : (∃ t, r = .macOk t) ∨ r = .cryptoFail)
    (hk : ∀ t, ∃ b', k t = .ok b') : ∃ b', onMac r b k = .ok b' := by
  obtain ⟨t, rfl⟩ | rfl := hr
  · exact hk t
  · exact ⟨_, rfl⟩

theorem onSlot_total {k : Bytes32 → Except Fault Block} (hr : (∃ o, r = .slotOk o) ∨ r = .hwFail)
    (hk : ∀ o, ∃ b', k o = .ok b') : ∃ b', onSlot r b k = .ok b' := by
  obtain ⟨o, rfl⟩ | rfl := hr
  · exact hk o
  · exact ⟨_, rfl⟩

theorem onRead_total {k : List Byte → Except Fault Block} (hr : (∃ l, r = .readOk l) ∨ r = .readFail)
    (hk : ∀ l, ∃ b', k l = .ok b') : ∃ b', onRead r b k = .ok b' := by
  obtain ⟨l, rfl⟩ | rfl := hr
  · exact hk l
  · exact ⟨_, rfl⟩

theorem onErase_total (m : EraseMode) (k : Block) (hr : r = .eraseOk ∨ r = .alreadyErased ∨ r = .eraseFail) :
    ∃ b', onErase m r b (.ok k) = .ok b' := by
  obtain rfl | rfl | rfl := hr
  · exact ⟨_, rfl⟩
  · cases m with
    | setup => exact ⟨_, rfl⟩
    | strict => exact ⟨_, rfl⟩
  · exact ⟨_, rfl⟩

theorem onWrite_total (k : Block) (hr : r = .writeOk ∨ r = .writeFail) : ∃ b', onWrite r b (.ok k) = .ok b' := by
  obtain rfl | rfl := hr
  · exact ⟨_, rfl⟩
  · exact ⟨_, rfl⟩

theorem setupAfterMacK_total (h : b.regs.idx.toNat < b.regs.record.enc.length) (k : Bytes32) :
    ∃ b', setupAfterMacK cfg b k = .ok b' := ⟨_, if_pos h⟩

theorem verifyAfterMacK_total (h : b.regs.record.cnt.toNat < b.regs.record.enc.length) (k : Bytes32) :
    ∃ b', verifyAfterMacK b k = .ok b' := by
  simp [verifyAfterMacK, List.getElem?_eq_getElem h]

/-- The block handles every response of the port its phase waits on: with the counters in place no index leaves the record
(R40, R266). -/
theorem resume_total {p : Phase} {req : Request} (hp : b.phase = p) (hq : phaseRequest cfg b.regs p = some req)
    (hr : req.Answered r) (hc : countersFit cfg.rounds b.regs p) (henc : b.regs.record.enc.length = cfg.rounds) :
    ∃ b', resume cfg b r = .ok b' := by
  have hr : ∀ q, phaseRequest cfg b.regs p = some q → q.Answered r := fun q hq' =>
    Option.some.inj (hq.symm.trans hq') ▸ hr
  cases p with
  | idle | fault => cases hq
  | sErase =>
    rw [resume_sErase hp]
    exact onErase_total _ _ (hr _ rfl)
  | sMacTag =>
    rw [resume_sMacTag hp]
    exact onMac_total (hr _ rfl) fun _ => ⟨_, rfl⟩
  | sMacU =>
    rw [resume_sMacU hp]
    exact onMac_total (hr _ rfl) fun _ => ⟨_, rfl⟩
  | sMacV =>
    rw [resume_sMacV hp]
    exact onMac_total (hr _ rfl) fun _ => ⟨_, rfl⟩
  | sSlotA =>
    rw [resume_sSlotA hp]
    exact onSlot_total (hr _ rfl) fun _ => ⟨_, rfl⟩
  | sSlotB =>
    rw [resume_sSlotB hp]
    exact onSlot_total (hr _ rfl) fun _ => ⟨_, rfl⟩
  | sSlotC =>
    rw [resume_sSlotC hp]
    exact onSlot_total (hr _ rfl) fun _ => ⟨_, rfl⟩
  | sMacK =>
    rw [resume_sMacK hp]
    exact onMac_total (hr _ rfl) (setupAfterMacK_total (henc ▸ hc.2))
  | sWrite =>
    rw [resume_sWrite hp]
    exact onWrite_total _ (hr _ rfl)
  | sMacFinal =>
    rw [resume_sMacFinal hp]
    exact onMac_total (hr _ rfl) fun _ => ⟨_, rfl⟩
  | vRead =>
    rw [resume_vRead hp]
    exact onRead_total (hr _ rfl) fun _ => ⟨_, rfl⟩
  | vEraseDec =>
    rw [resume_vEraseDec hp]
    exact onErase_total _ _ (hr _ rfl)
  | vWriteDec =>
    rw [resume_vWriteDec hp]
    exact onWrite_total _ (hr _ rfl)
  | vMacV =>
    rw [resume_vMacV hp]
    exact onMac_total (hr _ rfl) fun _ => ⟨_, rfl⟩
  | vSlot =>
    rw [resume_vSlot hp]
    exact onSlot_total (hr _ rfl) fun _ => ⟨_, rfl⟩
  | vMacK =>
    rw [resume_vMacK hp]
    exact onMac_total (hr _ rfl) (verifyAfterMacK_total (henc ▸ hc))
  | vMacT =>
    rw [resume_vMacT hp]
    exact onMac_total (hr _ rfl) fun _ => ⟨_, rfl⟩
  | vMacU =>
    rw [resume_vMacU hp]
    exact onMac_total (hr _ rfl) fun _ => ⟨_, rfl⟩
  | vRecommit =>
    rw [resume_vRecommit hp]
    exact onSlot_total (hr _ rfl) fun _ => ⟨_, rfl⟩
  | vEraseRst =>
    rw [resume_vEraseRst hp]
    exact onErase_total _ _ (hr _ rfl)
  | vWriteRst =>
    rw [resume_vWriteRst hp]
    exact onWrite_total _ (hr _ rfl)
  | vMacFinal =>
    rw [resume_vMacFinal hp]
    exact onMac_total (hr _ rfl) fun _ => ⟨_, rfl⟩

/-! ## Every kind of step answers a next state -/

theorem exec_total (i : Instr) (s : State) : ∃ t, exec i s = .next t := by
  cases i with
  | setup plen pin sec =>
    simp only [exec, execSetup]
    split
    · exact ⟨_, rfl⟩
    · exact ⟨_, rfl⟩
  | verify plen pin excess =>
    simp only [exec, execVerify]
    split
    · exact ⟨_, rfl⟩
    · exact ⟨_, rfl⟩

theorem acceptNext_total (s : State) : ∃ t, acceptNext s = .next t := by
  unfold acceptNext
  split
  · exact ⟨_, rfl⟩
  · split
    · exact exec_total _ _
    · exact ⟨_, rfl⟩

theorem acceptOrHold_total (s : State) : ∃ t, acceptOrHold s = .next t := by
  unfold acceptOrHold
  split
  · exact acceptNext_total s
  · exact ⟨_, rfl⟩

theorem answerNext_total {s : State} (hi : s.blk.Inv s.cfg) (hn : s.env.slots.length = s.cfg.rounds) (a : Answer) :
    ∃ t, answerNext c s a = .next t := by
  cases ho : s.blk.outstanding with
  | none => exact ⟨s, by simp only [answerNext, ho]⟩
  | some req =>
    have hq : phaseRequest s.cfg s.blk.regs s.blk.phase = some req := hi.waits.symm.trans ho
    cases he : envAnswer c s.cfg s.env req a with
    | silent => exact ⟨s, by simp only [answerNext, ho, he]⟩
    | fault f =>
      refine absurd he (envAnswer_ne_fault (fun i x hreq => ?_) a f)
      rw [hn]
      exact phaseRequest_slot (hreq ▸ hq) hi.counters
    | answered r e' =>
      obtain ⟨b', hb⟩ := resume_total rfl hq (envAnswer_answered he) hi.counters hi.encCount
      exact ⟨_, answerNext_of ho he hb⟩

/-- Settles O46, by the next input: only an answer can stop a step, and `answerNext_total` excludes it. -/
theorem noStepStops : Obligations.NoStepStops := by
  intro s hs
  unfold step
  cases hin : s.inputs with
  | nil =>
    rw [systemStep_quiet hs.legal (.inl hin)]
    exact acceptOrHold_total _
  | cons x is =>
    cases x with
    | quiet =>
      rw [systemStep_quiet hs.legal (.inr ⟨is, hin⟩)]
      exact acceptOrHold_total _
    | reset left => exact ⟨_, systemStep_reset hs.legal hin⟩
    | answer a =>
      cases hc : s.canAccept with
      | true =>
        obtain ⟨hp, hh⟩ := canAccept_iff.1 hc
        obtain ⟨f, fs, hf⟩ := List.exists_cons_of_ne_nil hh
        rw [systemStep_accept hs.legal (by simp [hin]) hp hf]
        exact acceptNext_total _
      | false =>
        rw [systemStep_answer hs.legal hin hc]
        exact answerNext_total (s := s.setInputs is) hs.block hs.slotCount a

end Sys2Proof.Machine
end

section
/-! PROOFS. What a step leaves alone: the targets no request names, and the key the host reads. -/

namespace Sys2Proof.Machine

variable {c : Collaborators} {cfg : Cfg} {e e' : Env} {b b' : Block}

/-- Settles O48: whatever changed was asked for, and the store's requests all name `RECORD_ADDR`. -/
theorem onlyTheRequestedTargetChanges : Obligations.OnlyTheRequestedTargetChanges := by
  intro s t hs h
  obtain ⟨hcfg, hm⟩ := systemStep_moves h
  have ht := hm.touched
  have hw := hs.block.waits
  refine ⟨hcfg, fun a ha => ?_, fun hst => ?_, fun j hj => ht.slot_requested hj⟩
  · by_contra hne
    obtain ho | ⟨l, ho⟩ := ht.unit_requested hne
    · exact ha (phaseRequest_erase (hw.symm.trans ho))
    · exact ha (phaseRequest_write (hw.symm.trans ho)).1
  · simp only [State.store, hcfg] at hst
    obtain ho | ⟨l, ho⟩ := ht.unit_requested hst
    · exact .inl ho
    · obtain ⟨-, rfl⟩ := phaseRequest_write (hw.symm.trans ho)
      exact .inr ho

/-- A phase that waits for a final key ends its command with this status (R152, R194). -/
def Phase.FinalStatus (p : Phase) (st : Status) : Prop := p = .sMacFinal ∧ st = .ok ∨ p = .vMacFinal ∧ st = .authSuccess

/-- The response register after a RESPONSE step: as it was, with the zero key, or with the tag of the final MAC. -/
theorem Advance.rsp {r : Response} (h : Advance cfg b r b') :
    b'.rsp = b.rsp ∨ b'.rsp.key = zero32 ∨
      ∃ fk st, r = .macOk fk ∧ b.phase.FinalStatus st ∧ b'.rsp = { valid := true, status := st.code, key := fk } := by
  cases h with
  | cryptoFail | hwFail | readFail | eraseFail | writeFail | notErased => exact .inr (.inl rfl)
  | sMacV _ v => exact .inl (setupLoop_keeps cfg _).1
  | sMacK _ k _ hk =>
    obtain ⟨-, rfl⟩ := setupAfterMacK_ok hk
    exact .inl (setupLoop_keeps cfg _).1
  | vMacU _ u => exact .inl (recommitLoop_keeps cfg _).1
  | vRecommit _ o => exact .inl (recommitLoop_keeps cfg _).1
  | vRead _ l =>
    obtain ⟨f, -, heq⟩ | ⟨rec, -, heq | ⟨-, heq⟩⟩ := verifyAfterRead_cases cfg b l
    · rw [heq]
      exact .inl rfl
    · rw [heq]
      exact .inr (.inl rfl)
    · rw [heq]
      exact .inl rfl
  | vMacK _ k _ hk =>
    obtain ⟨x, -, rfl⟩ := verifyAfterMacK_ok hk
    -- an opaque block: the unifier would otherwise compare its bytes
    generalize xor32 x k = y
    exact .inl rfl
  | vMacT _ t =>
    obtain heq | heq := verifyAfterMacT_cases b t
    · rw [heq]
      exact .inl rfl
    · rw [heq]
      exact .inr (.inl rfl)
  | sMacFinal h fk => exact .inr (.inr ⟨fk, .ok, rfl, .inl ⟨h, rfl⟩, rfl⟩)
  | vMacFinal h fk => exact .inr (.inr ⟨fk, .authSuccess, rfl, .inr ⟨h, rfl⟩, rfl⟩)
  | _ => exact .inl rfl

/-- The final phases wait on the MAC of `S` and the final label (R151, R194). -/
theorem Block.Inv.waits_final (h : b.Inv cfg) {st : Status} (hp : b.phase.FinalStatus st) :
    b.outstanding = some (.mac b.regs.s labelFinal) := by
  obtain ⟨hp, -⟩ | ⟨hp, -⟩ := hp
  · exact h.waitsIn hp
  · exact h.waitsIn hp

/-- The response register after a step: the key is as it was, is zero, or is the final key of `S`. -/
theorem Moves.rsp (h : Moves c cfg e b e' b') (hi : b.Inv cfg) :
    b'.rsp.key = b.rsp.key ∨ b'.rsp.key = zero32 ∨
      ∃ st, b.phase.FinalStatus st ∧ b'.rsp = { valid := true, status := st.code, key := c.mac b.regs.s labelFinal } := by
  cases h with
  | hold => exact .inl rfl
  | reset _ => exact .inr (.inl rfl)
  | setup => exact .inl rfl
  | verify => exact .inl rfl
  | reject => exact .inr (.inl rfl)
  | answer ho he hb =>
    obtain heq | hz | ⟨fk, st, rfl, hp, heq⟩ := hb.rsp
    · exact .inl (congrArg Rsp.key heq)
    · exact .inr (.inl hz)
    · obtain rfl := Option.some.inj (ho.symm.trans (hi.waits_final hp))
      obtain ⟨-, ⟨-, hr⟩ | hr⟩ := envAnswer_mac he
      · obtain rfl := Response.macOk.inj hr
        exact .inr (.inr ⟨st, hp, heq⟩)
      · cases hr

/-- Settles O50: a new key that is not zero came from the final MAC. -/
theorem hostSeesOnlyFinalKey : Obligations.HostSeesOnlyFinalKey := by
  intro s t hs h hne
  obtain ⟨-, hm⟩ := systemStep_moves h
  obtain hk | hz | ⟨st, hp, heq⟩ := hm.rsp hs.block
  · exact absurd hk hne
  · exact .inl hz
  · rw [heq]
    exact .inr ⟨rfl, rfl, hp.imp (And.imp_right (congrArg Status.code)) (And.imp_right (congrArg Status.code))⟩

end Sys2Proof.Machine
end

section
/-! PROOFS. The store's contracts for READ and ERASE, and the durability of the record the block wrote. -/

namespace Sys2Proof.Machine

variable {c : Collaborators} {cfg : Cfg} {e e' : Env} {s : State} {b' : Block}

/-! ## READ and ERASE for each content of the unit -/

/-- A READ of a unit that holds data answers its first bytes (R74). -/
theorem envAnswer_read_data {a : Nat} {l : List Byte} (h : e.mem.unit a = .data l) (n : Nat) :
    envAnswer c cfg e (.read a n) .ok = .answered (.readOk (l.take n)) e := by
  simp [envAnswer, serve, h]

/-- A READ of an erased unit fails (R74). -/
theorem envAnswer_read_erased {a : Nat} (h : e.mem.unit a = .erased) (n : Nat) :
    envAnswer c cfg e (.read a n) .ok = .answered .readFail e := by
  simp [envAnswer, serve, h]

/-- An ERASE of a unit that holds data erases it (R75). -/
theorem envAnswer_erase_data {a : Nat} {l : List Byte} (h : e.mem.unit a = .data l) :
    envAnswer c cfg e (.erase a) .ok = .answered .eraseOk { e with mem := e.mem.erase a } := by
  simp [envAnswer, serve, h]

/-- An ERASE of an erased unit changes nothing (R75). -/
theorem envAnswer_erase_erased {a : Nat} (h : e.mem.unit a = .erased) :
    envAnswer c cfg e (.erase a) .ok = .answered .alreadyErased e := by
  simp [envAnswer, serve, h]

/-- A failed or interrupted ERASE leaves its unit unchanged or erased (R75, R351). -/
theorem unit_afterBadErase_same (m : Memory) (a : Nat) (u : UnitResidue) :
    (afterBadErase m a u).unit a = m.unit a ∨ (afterBadErase m a u).unit a = .erased := by
  cases u with
  | erased => exact .inr (Memory.unit_erase_same m a)
  | unchanged => exact .inl rfl
  | data _ => exact .inl rfl

/-- A failed or interrupted ERASE leaves every other unit (R75, R351). -/
theorem unit_afterBadErase_other (m : Memory) {a a' : Nat} (u : UnitResidue) (h : a' ≠ a) :
    (afterBadErase m a u).unit a' = m.unit a' := by
  cases u with
  | erased => exact Memory.unit_erase_other m h
  | unchanged => rfl
  | data _ => rfl

/-- Settles O26: the answer for each content of the unit; that nothing changes is `envAnswer_read`. -/
theorem readContract : Obligations.ReadContract := by
  intro cfg e a n
  refine ⟨fun l hl _ => envAnswer_read_data hl n, fun l hl hn => ?_, fun h => envAnswer_read_erased h n,
    fun _ => rfl, fun _ _ _ h => (envAnswer_read h).1⟩
  rw [envAnswer_read_data hl n, List.take_of_length_le hn.le]

/-- Settles O27: the answer for each content of the unit; both outcomes of `Fail` are drawn residues. -/
theorem eraseContract : Obligations.EraseContract := by
  intro cfg e a
  refine ⟨fun l hl => ⟨_, envAnswer_erase_data hl, Memory.unit_erase_same _ a, rfl,
      fun _ h => Memory.unit_erase_other _ h⟩, envAnswer_erase_erased, rfl,
    fun left => ⟨_, rfl, unit_afterBadErase_same _ a _, rfl, fun _ h => unit_afterBadErase_other _ _ h⟩, ?_⟩
  rintro u (rfl | rfl)
  · exact ⟨⟨.unchanged, .fresh⟩, _, rfl, rfl⟩
  · exact ⟨⟨.erased, .fresh⟩, _, rfl, Memory.unit_erase_same _ a⟩

/-! ## Where the store holds the record of `REC` -/

/-- The phases from the `Ok` of a record's WRITE on, as long as `REC` is the record that was written (R81, R352). -/
def Phase.recordStored : Phase → Bool
  | .vMacV | .vSlot | .vMacK | .vMacT | .vMacU | .vRecommit | .sMacFinal | .vMacFinal => true
  | _ => false

/-- What durability says in these phases. -/
theorem State.Durable.stored (h : s.Durable) (hp : s.blk.phase.recordStored = true) :
    s.store = .data (encodeRecord s.blk.regs.record) := by
  obtain ⟨cfg, ⟨p, o, r, rsp, fc⟩, env, host, inputs, refusal⟩ := s
  cases p with
  | vMacV | vSlot | vMacK | vMacT | vMacU | vRecommit | sMacFinal | vMacFinal => exact h
  | _ => cases hp

/-- These phases wait on no ERASE and no WRITE: the store is left alone until their response. -/
theorem phaseRequest_recordStored {r : Regs} {p : Phase} (hp : p.recordStored = true) (a : Nat) :
    phaseRequest cfg r p ≠ some (.erase a) ∧ ∀ l, phaseRequest cfg r p ≠ some (.write a l) := by
  cases p <;> simp_all [Phase.recordStored, phaseRequest]

/-- In these phases the answered transaction leaves the record in the store. -/
theorem State.Durable.stored_after (h : s.Durable) (hi : s.blk.Inv s.cfg)
    (ht : s.env.Touched s.cfg s.blk.outstanding e') (hp : s.blk.phase.recordStored = true) :
    e'.mem.unit s.cfg.recordAddr = .data (encodeRecord s.blk.regs.record) := by
  refine Eq.trans ?_ (h.stored hp)
  by_contra hne
  obtain ⟨herase, hwrite⟩ := phaseRequest_recordStored (cfg := s.cfg) (r := s.blk.regs) hp s.cfg.recordAddr
  obtain ho | ⟨l, ho⟩ := ht.unit_requested hne
  · exact herase (hi.waits.symm.trans ho)
  · exact hwrite l (hi.waits.symm.trans ho)

/-- After the `Ok` of the outstanding WRITE the unit holds the record (R76, R269). -/
theorem Block.Inv.unit_of_writeOk {b : Block} (hi : b.Inv cfg) {req : Request} {a : Answer}
    (ho : b.outstanding = some req) (he : envAnswer c cfg e req a = .answered .writeOk e') :
    e'.mem.unit cfg.recordAddr = .data (encodeRecord b.regs.record) := by
  have hr := envAnswer_answered he
  cases req with
  | write ad l =>
    obtain ⟨rfl, rfl⟩ := phaseRequest_write (hi.waits.symm.trans ho)
    obtain ⟨-, -, rfl⟩ | ⟨_, hr, -⟩ := envAnswer_write he
    · exact Memory.unit_write_same _ _ _
    · cases hr
  | _ => simp [Request.Answered] at hr

/-! ## Durability over the steps -/

/-- The re-commit loop starts or goes on with the record stored; when it ends, the stored counter is the decremented one
(R192, R193). -/
theorem State.recommitLoop_durable {b : Block} (hs : s.store = .data (encodeRecord b.regs.record))
    (hc : b.regs.record.cnt.toNat < s.cfg.rounds) : (s.setBlk (recommitLoop s.cfg b)).Durable := by
  by_cases hi : b.regs.idx.toNat + 2 ≤ s.cfg.rounds
  · rw [recommitLoop_more hi]
    exact hs
  · rw [recommitLoop_done hi]
    exact ⟨b.regs.record.cnt, hc, hs⟩

/-- Nothing is claimed in SETUP's loop and at its WRITE. -/
theorem State.setupLoop_durable (s : State) (b : Block) : (s.setBlk (setupLoop s.cfg b)).Durable := by
  by_cases hi : b.regs.idx.toNat < s.cfg.rounds
  · rw [setupLoop_more hi]
    trivial
  · rw [setupLoop_done hi]
    trivial

/-- Every RESPONSE step keeps durability: a WRITE's `Ok` puts the record in the store, and the phases that need it there
find it there. The constructors not named lead to a phase of which durability claims nothing. -/
theorem Advance.durable {r : Response} (h : Advance s.cfg s.blk r b') (hi : s.blk.Inv s.cfg)
    (hkept : s.blk.phase.recordStored = true → e'.mem.unit s.cfg.recordAddr = .data (encodeRecord s.blk.regs.record))
    (hwritten : r = .writeOk → e'.mem.unit s.cfg.recordAddr = .data (encodeRecord s.blk.regs.record)) :
    ((s.setEnv e').setBlk b').Durable := by
  have hstored {p : Phase} (hp : s.blk.phase = p) (hq : p.recordStored = true) := hkept (hp ▸ hq)
  cases h with
  | sMacV _ v => exact (s.setEnv e').setupLoop_durable _
  | sMacK _ k _ hk =>
    obtain ⟨-, rfl⟩ := setupAfterMacK_ok hk
    exact (s.setEnv e').setupLoop_durable _
  | sWrite _ | vWriteDec _ | vWriteRst _ => exact hwritten rfl
  | vRead _ l =>
    obtain ⟨f, -, heq⟩ | ⟨rec, -, heq | ⟨-, heq⟩⟩ := verifyAfterRead_cases s.cfg s.blk l
    · rw [heq]
      trivial
    · rw [heq]
      trivial
    · rw [heq]
      trivial
  | vMacV hp v => exact hstored hp rfl
  | vSlot hp w => exact hstored hp rfl
  | vMacK hp k _ hk =>
    obtain ⟨x, -, rfl⟩ := verifyAfterMacK_ok hk
    -- an opaque block: the unifier would otherwise compare its bytes
    generalize xor32 x k = y
    exact hstored hp rfl
  | vMacT hp t =>
    obtain heq | heq := verifyAfterMacT_cases s.blk t
    · rw [heq]
      exact hstored hp rfl
    · rw [heq]
      trivial
  | vMacU hp u => exact (s.setEnv e').recommitLoop_durable (hstored hp rfl) (hi.countersIn hp :)
  | vRecommit hp o =>
    obtain ⟨hcnt, hidx⟩ := hi.countersIn hp
    have hlt : s.blk.regs.record.cnt.toNat < s.cfg.rounds := by omega
    exact (s.setEnv e').recommitLoop_durable (hstored hp rfl) hlt
  | _ => trivial

/-- Every step keeps durability: only a RESPONSE step leads to a phase that needs the record stored. -/
theorem Moves.durable (h : Moves c s.cfg s.env s.blk e' b') (hi : s.blk.Inv s.cfg) (hd : s.Durable) :
    ((s.setEnv e').setBlk b').Durable := by
  cases h with
  | hold => exact hd
  | answer ho he hb =>
    exact hb.durable hi (hd.stored_after hi (ho ▸ envAnswer_touched he)) fun hr => hi.unit_of_writeOk ho (hr ▸ he)
  | _ => trivial

/-- Settles O44, by the kinds of a step. As a step leaves CFG, the new state is durable where the old one with the new
ENV and BLOCK is. -/
theorem everyStepKeepsDurable : Obligations.EveryStepKeepsDurable := by
  intro s t hs hd h
  obtain ⟨hcfg, hm⟩ := systemStep_moves h
  have ht := hm.durable hs.block hd
  unfold State.Durable State.store at ht ⊢
  rw [hcfg]
  exact ht

end Sys2Proof.Machine
end

section
/-! PROOFS. The decoder and the encoder are inverse to each other, so a frame that decodes can be read as the frame of its
command; its length and its validity are read off that. -/

namespace Sys2Proof

open Machine

variable {f : Frame} {i : Instr} {n : Byte} {plen : Option Byte} {pin tail : List Byte}
  (mk : Option Byte → List Byte → List Byte → Instr)

/-! ## The cut of a frame into its fields -/

@[simp] theorem encode_setup_some (sec : List Byte) :
    encode (.setup (some n) pin sec) = opcSetup :: n :: (pin ++ sec) := rfl

@[simp] theorem encode_verify_some (excess : List Byte) :
    encode (.verify (some n) pin excess) = opcVerify :: n :: (pin ++ excess) := rfl

@[simp] theorem frameLength_opcSetup (l : List Byte) : frameLength (opcSetup :: n :: l) = some (34 + n.toNat) := rfl

@[simp] theorem frameLength_opcVerify (l : List Byte) : frameLength (opcVerify :: n :: l) = some (2 + n.toNat) := rfl

@[simp] theorem decode_nil : decode [] = .error .emptyFrame := rfl

@[simp] theorem decode_opcSetup (rest : List Byte) : decode (opcSetup :: rest) = .ok (cutFields .setup rest) := rfl

@[simp] theorem decode_opcVerify (rest : List Byte) : decode (opcVerify :: rest) = .ok (cutFields .verify rest) := rfl

theorem decode_reserved {opc : Byte} (hs : opc ≠ opcSetup) (hv : opc ≠ opcVerify) (rest : List Byte) :
    decode (opc :: rest) = .error (.reservedOpcode opc) := by
  rw [decode, if_neg hs, if_neg hv]

/-- Cutting the fields of a frame gives them back: a PIN that is followed by further bytes is as long as `PLEN` says, and one
that is shorter ends the frame. -/
theorem cutFields_of_fieldsFit (h : FieldsFit plen pin tail) :
    cutFields mk (plen.toList ++ pin ++ tail) = mk plen pin tail := by
  cases plen with
  | none =>
    obtain ⟨rfl, rfl⟩ := h
    rfl
  | some n =>
    obtain ⟨hle, rfl | hlen⟩ := h
    · simp [cutFields, List.take_of_length_le hle, List.drop_eq_nil_of_le hle]
    · simp [cutFields, ← hlen]

/-- The cut of any bytes is one triple of fields that fit, and these are the bytes in order. -/
theorem exists_cutFields (l : List Byte) :
    ∃ plen pin tail, FieldsFit plen pin tail ∧ plen.toList ++ pin ++ tail = l ∧ ∀ mk, cutFields mk l = mk plen pin tail := by
  cases l with
  | nil => exact ⟨none, [], [], ⟨rfl, rfl⟩, rfl, fun _ => rfl⟩
  | cons n body =>
    refine ⟨some n, body.take n.toNat, body.drop n.toNat, ⟨List.length_take_le _ _, ?_⟩, by simp, fun _ => rfl⟩
    obtain h | h := Nat.le_total body.length n.toNat
    · exact .inl (List.drop_eq_nil_of_le h)
    · exact .inr (List.length_take_of_le h)

/-- A frame that decodes begins with one of the two opcodes. -/
theorem decode_ok_cases (h : decode f = .ok i) :
    ∃ rest, f = opcSetup :: rest ∧ i = cutFields .setup rest ∨ f = opcVerify :: rest ∧ i = cutFields .verify rest := by
  cases f with
  | nil => cases h
  | cons opc rest =>
    refine ⟨rest, ?_⟩
    by_cases hs : opc = opcSetup
    · subst hs
      exact .inl ⟨rfl, (Except.ok.inj h).symm⟩
    · by_cases hv : opc = opcVerify
      · subst hv
        exact .inr ⟨rfl, (Except.ok.inj h).symm⟩
      · rw [decode_reserved hs hv] at h
        cases h

theorem decode_encode (h : i.WellFormed) : decode (encode i) = .ok i := by
  cases i with
  | setup plen pin sec => rw [encode, decode_opcSetup, cutFields_of_fieldsFit _ h]
  | verify plen pin excess => rw [encode, decode_opcVerify, cutFields_of_fieldsFit _ h]

theorem encode_of_decode (h : decode f = .ok i) : encode i = f ∧ i.WellFormed := by
  obtain ⟨rest, hf⟩ := decode_ok_cases h
  obtain ⟨plen, pin, tail, hfit, rfl, hcut⟩ := exists_cutFields rest
  obtain ⟨rfl, rfl⟩ | ⟨rfl, rfl⟩ := hf
  · rw [hcut]
    exact ⟨rfl, hfit⟩
  · rw [hcut]
    exact ⟨rfl, hfit⟩

/-- Settles O2: the opcode picks the command, and cutting the fields of a well-formed command gives them back. -/
theorem decodeOfEncode : Obligations.DecodeOfEncode := fun _ => decode_encode

/-- Settles O3: the cut of a frame's bytes leaves none out, and its fields fit. -/
theorem encodeOfDecode : Obligations.EncodeOfDecode := fun _ _ => encode_of_decode

/-- Settles O4, by the frame's first byte. -/
theorem reservedFramesAreTheTwoKinds : Obligations.ReservedFramesAreTheTwoKinds := by
  intro f
  constructor
  · rintro ⟨e, he⟩
    cases f with
    | nil => exact .inl rfl
    | cons opc rest =>
      refine .inr ⟨opc, rest, rfl, ?_, ?_⟩
      · rintro rfl
        cases he
      · rintro rfl
        cases he
  · rintro (rfl | ⟨opc, rest, rfl, hs, hv⟩)
    · exact ⟨_, decode_nil⟩
    · exact ⟨_, decode_reserved hs hv rest⟩

/-- Settles O1: five frames are those of well-formed commands, and two are reserved. -/
theorem sampleFramesDecode : Obligations.SampleFramesDecode :=
  ⟨decode_encode (i := .verify (some 4) [1, 2, 3, 4] []) (by decide),
    decode_encode (i := .verify (some 4) [1, 2, 3, 4] [5]) (by decide),
    decode_encode (i := .setup (some 4) [1, 2, 3, 4] (List.replicate 32 0x5A)) (by decide),
    decode_encode (i := .setup (some 4) [1, 2, 3, 4] []) (by decide),
    decode_encode (i := .setup none [] []) (by decide),
    decode_nil, decode_reserved (by decide) (by decide) _⟩

/-! ## When a frame is valid -/

/-- The fields of a frame have the lengths `PLEN` and `k` exactly if they have them together: a PIN cut short has nothing
after it. -/
theorem fieldsFit_length_iff (h : FieldsFit (some n) pin tail) (k : Nat) :
    pin.length = n.toNat ∧ tail.length = k ↔ pin.length + tail.length = n.toNat + k := by
  obtain ⟨hle, rfl | hlen⟩ := h
  · rw [List.length_nil]
    omega
  · omega

/-- R104 for SETUP, read off the frame. -/
theorem validSetup_iff_frame {sec : List Byte} (h : decode f = .ok (.setup plen pin sec)) :
    validSetup plen pin sec = true ↔
      2 ≤ f.length ∧ 4 ≤ (f.getD 1 0).toNat ∧ (f.getD 1 0).toNat ≤ 8 ∧ f.length = 34 + (f.getD 1 0).toNat := by
  obtain ⟨rfl, hfit⟩ := encode_of_decode h
  cases plen with
  | none =>
    obtain ⟨rfl, rfl⟩ := hfit
    decide
  | some n =>
    have hlen := fieldsFit_length_iff hfit 32
    simp only [validSetup_iff, encode_setup_some, List.length_cons, List.length_append, List.getD_cons_succ,
      List.getD_cons_zero, hlen]
    omega

/-- R104 for VERIFY, read off the frame. -/
theorem validVerify_iff_frame {excess : List Byte} (h : decode f = .ok (.verify plen pin excess)) :
    validVerify plen pin excess = true ↔
      2 ≤ f.length ∧ 4 ≤ (f.getD 1 0).toNat ∧ (f.getD 1 0).toNat ≤ 8 ∧ f.length = 2 + (f.getD 1 0).toNat := by
  obtain ⟨rfl, hfit⟩ := encode_of_decode h
  cases plen with
  | none =>
    obtain ⟨rfl, rfl⟩ := hfit
    decide
  | some n =>
    have hlen := fieldsFit_length_iff hfit 0
    simp only [validVerify_iff, encode_verify_some, List.length_cons, List.length_append, List.getD_cons_succ,
      List.getD_cons_zero, hlen]
    omega

/-- Settles O5: with a legal `PLEN`, the frame of R104 is the one whose length `PLEN` gives. -/
theorem frameLengthFromTwoBytes : Obligations.FrameLengthFromTwoBytes := by
  constructor
  · intro f n pin sec h h4 h8
    have hvalid := validSetup_iff_frame h
    obtain ⟨rfl, -⟩ := encode_of_decode h
    refine ⟨rfl, hvalid.trans ?_⟩
    simp only [encode_setup_some, frameLength_opcSetup, List.length_cons, List.getD_cons_succ, List.getD_cons_zero,
      Option.some.injEq]
    omega
  · intro f n pin excess h h4 h8
    have hvalid := validVerify_iff_frame h
    obtain ⟨rfl, -⟩ := encode_of_decode h
    refine ⟨rfl, hvalid.trans ?_⟩
    simp only [encode_verify_some, frameLength_opcVerify, List.length_cons, List.getD_cons_succ, List.getD_cons_zero,
      Option.some.injEq]
    omega

end Sys2Proof
end

section
/-! PROOFS. The ACCEPT step of a frame: what an invalid one ends with, and where the operands of a valid one stand. -/

namespace Sys2Proof.Machine

variable {s : State} {plen : Option Byte} {pin tail : List Byte}

/-- A frame that is not valid ends, in IDLE, in the block of a completed command (R104, R273). -/
theorem Block.Inv.reject_eq {cfg : Cfg} {b : Block} (h : b.Inv cfg) (hp : b.phase = .idle) :
    b.accept.raise .paramError = Block.completed cfg .none .paramError zero32 := by
  rw [Block.raise_eq (b := b.accept) h.encCount, Block.accept_faultCode, h.noFault_of_idle hp]
  rfl

theorem exec_setup_valid (hp : s.blk.phase = .idle) (hv : validSetup plen pin tail = true) :
    exec (.setup plen pin tail) s = .next (s.setBlk
      ((s.blk.accept.setRegs ((s.blk.regs.loadPin (plen.getD 0) pin).setS (bytes32 tail))).memErase s.cfg .sErase)) := by
  simp only [exec, execSetup, if_pos hp, if_pos hv, Block.accept_regs]

theorem exec_verify_valid (hp : s.blk.phase = .idle) (hv : validVerify plen pin tail = true) :
    exec (.verify plen pin tail) s = .next (s.setBlk
      ((s.blk.accept.setRegs (s.blk.regs.loadPin (plen.getD 0) pin)).memRead s.cfg .vRead)) := by
  simp only [exec, execVerify, if_pos hp, if_pos hv, Block.accept_regs]

theorem exec_setup_invalid (hi : s.blk.Inv s.cfg) (hp : s.blk.phase = .idle) (hv : validSetup plen pin tail = false) :
    exec (.setup plen pin tail) s = .next { s with blk := Block.completed s.cfg .none .paramError zero32 } := by
  simp only [exec, execSetup, if_pos hp, hv, Bool.false_eq_true, if_false, hi.reject_eq hp, State.setBlk]

theorem exec_verify_invalid (hi : s.blk.Inv s.cfg) (hp : s.blk.phase = .idle)
    (hv : validVerify plen pin tail = false) :
    exec (.verify plen pin tail) s = .next { s with blk := Block.completed s.cfg .none .paramError zero32 } := by
  simp only [exec, execVerify, if_pos hp, hv, Bool.false_eq_true, if_false, hi.reject_eq hp, State.setBlk]

/-- Settles O6: the two checks read off the frame, and the abort with PARAM_ERROR. -/
theorem frameValidity : Obligations.FrameValidity :=
  ⟨fun _ _ _ _ => validSetup_iff_frame, fun _ _ _ _ => validVerify_iff_frame,
    fun _ _ _ _ hs hp => ⟨exec_setup_invalid hs.block hp, exec_verify_invalid hs.block hp⟩⟩

/-- The PIN register holds the bytes of the frame from `F[2]` on, and zeros from `PLEN` on (R103). -/
theorem pinPadded_getElem_frame {opc n : Byte} (hn : pin.length = n.toNat) (j : Nat) (hj : j < 8) :
    (pinPadded pin)[j] = if j < n.toNat then (opc :: n :: (pin ++ tail)).getD (2 + j) 0 else 0x00 := by
  rw [pinPadded_getElem]
  split
  · rw [Nat.add_comm, List.getD_cons_succ, List.getD_cons_succ, List.getD_append _ _ _ _ (by omega)]
  · exact List.getD_eq_default _ _ (by omega)

/-- `S` holds the bytes of the frame from `F[2+PLEN]` on (R103). -/
theorem bytes32_getElem_frame {opc n : Byte} (hn : pin.length = n.toNat) (j : Nat) (hj : j < 32) :
    (bytes32 tail)[j] = (opc :: n :: (pin ++ tail)).getD (2 + n.toNat + j) 0 := by
  rw [bytes32_getElem, show 2 + n.toNat + j = pin.length + j + 1 + 1 by omega, List.getD_cons_succ,
    List.getD_cons_succ, List.getD_append_right _ _ _ _ (by omega), Nat.add_sub_cancel_left]

/-- Settles O7: a valid frame is its opcode, `PLEN`, a PIN of that length, and what follows. -/
theorem operandsAssembledFromFrame : Obligations.OperandsAssembledFromFrame := by
  intro s f hp
  constructor
  · intro plen pin sec hf hv
    obtain ⟨rfl, -⟩ := encode_of_decode hf
    cases plen with
    | none => cases hv
    | some n =>
      obtain ⟨-, -, hn, -⟩ := validSetup_iff.1 hv
      exact ⟨_, exec_setup_valid hp hv, rfl, pinPadded_getElem_frame hn, bytes32_getElem_frame hn⟩
  · intro plen pin excess hf hv
    obtain ⟨rfl, -⟩ := encode_of_decode hf
    cases plen with
    | none => cases hv
    | some n =>
      obtain ⟨-, -, hn, -⟩ := validVerify_iff.1 hv
      exact ⟨_, exec_verify_valid hp hv, rfl, pinPadded_getElem_frame hn⟩

end Sys2Proof.Machine
end

section
/-! PROOFS. The requests of the phases in the form of their ports. -/

namespace Sys2Proof.Machine

variable {cfg : Cfg} {r : Regs} {p : Phase}

/-- A MAC request is for a label under `S`, or for the PIN under zero or `W` (R144, R188, R263). -/
theorem phaseRequest_mac {key : Bytes32} {msg : List Byte} (h : phaseRequest cfg r p = some (.mac key msg)) :
    (key = r.s ∧ (msg = labelTag ∨ msg = labelRekey ∨ msg = labelFinal)) ∨
      ((key = zero32 ∨ key = r.w) ∧ msg = r.pinMsg) := by
  cases p with
  | sMacTag | vMacT =>
    cases h
    exact .inl ⟨rfl, .inl rfl⟩
  | sMacU | vMacU =>
    cases h
    exact .inl ⟨rfl, .inr (.inl rfl)⟩
  | sMacFinal | vMacFinal =>
    cases h
    exact .inl ⟨rfl, .inr (.inr rfl)⟩
  | sMacV | vMacV =>
    cases h
    exact .inr ⟨.inl rfl, rfl⟩
  | sMacK | vMacK =>
    cases h
    exact .inr ⟨.inr rfl, rfl⟩
  | _ => cases h

/-- A slot request inputs `U` or `V` (R146 to R148, R187, R192). -/
theorem phaseRequest_slot_input {i : Byte} {x : Bytes32} (h : phaseRequest cfg r p = some (.slot i x)) :
    x = r.u ∨ x = r.v := by
  cases p with
  | sSlotA | sSlotC | vRecommit =>
    cases h
    exact .inl rfl
  | sSlotB | vSlot =>
    cases h
    exact .inr rfl
  | _ => cases h

/-- The one READ asks for `RECSIZE` bytes at `RECORD_ADDR` (R267). -/
theorem phaseRequest_read {a n : Nat} (h : phaseRequest cfg r p = some (.read a n)) :
    a = cfg.recordAddr ∧ n = cfg.recSize := by
  cases p with
  | vRead =>
    cases h
    exact ⟨rfl, rfl⟩
  | _ => cases h

/-- The PIN message of a held PIN has `PINLEN` bytes (R263). -/
theorem Regs.pinMsg_length (h : r.pinHeld) : r.pinMsg.length = r.pinlen.toNat := by
  obtain ⟨-, h8, -⟩ := h
  exact List.length_take_of_le (h8.trans_eq Vector.length_toList.symm)

/-- Settles O49, by the port: the phase says what is outstanding. -/
theorem requestsInPortForm : Obligations.RequestsInPortForm := by
  intro s req hs ho
  have hi := hs.block
  have hq : phaseRequest s.cfg s.blk.regs s.blk.phase = some req := hi.waits.symm.trans ho
  cases req with
  | mac key msg =>
    refine (phaseRequest_mac hq).imp id fun ⟨hkey, hmsg⟩ => ?_
    have hpin := hi.pin (hi.running_of_outstanding ho)
    have hlen := Regs.pinMsg_length hpin
    obtain ⟨h4, h8, -⟩ := hpin
    rw [← hlen, ← hmsg] at h4 h8
    exact ⟨hkey, h4, h8, hmsg⟩
  | slot i x => exact ⟨phaseRequest_slot hq hi.counters, phaseRequest_slot_input hq⟩
  | read a n => exact phaseRequest_read hq
  | erase a => exact phaseRequest_erase hq
  | write a l =>
    obtain ⟨ha, rfl⟩ := phaseRequest_write hq
    exact ⟨ha, by rw [encodeRecord_length, hi.encCount]⟩

end Sys2Proof.Machine
end

section
/-! PROOFS. The assembler reads what the line of a valid command spells. -/

namespace Sys2Proof.Machine

variable {bs pin : List Byte} {cs rest : List Char}

/-! ## Hexadecimal digits -/

theorem hexVal_hexDigit {n : Nat} (h : n < 16) : hexVal (hexDigit n) = some n :=
  (by decide : ∀ n < 16, hexVal (hexDigit n) = some n) n h

theorem isHexDigit_hexDigit {n : Nat} (h : n < 16) : isHexDigit (hexDigit n) = true := by
  rw [isHexDigit, hexVal_hexDigit h]
  rfl

theorem byte_digits_lt (b : Byte) : b.toNat / 16 < 16 ∧ b.toNat % 16 < 16 := by omega

theorem isHexDigit_of_mem_hexText {c : Char} (h : c ∈ hexText bs) : isHexDigit c = true := by
  induction bs with
  | nil => cases h
  | cons b bs ih =>
    obtain rfl | rfl | h := by simpa only [hexText, List.mem_cons] using h
    · exact isHexDigit_hexDigit (byte_digits_lt b).1
    · exact isHexDigit_hexDigit (byte_digits_lt b).2
    · exact ih h

theorem hexBytes_hexText (bs : List Byte) : hexBytes (hexText bs) = some bs := by
  induction bs with
  | nil => rfl
  | cons b bs ih =>
    obtain ⟨hhigh, hlow⟩ := byte_digits_lt b
    simp only [hexText, hexBytes, hexVal_hexDigit hhigh, hexVal_hexDigit hlow, ih, Nat.div_add_mod,
      BitVec.ofNat_toNat, BitVec.setWidth_eq]

/-! ## Words and operands -/

theorem afterLit_append (lit cs : List Char) : afterLit lit (lit ++ cs) = some cs := by
  induction lit with
  | nil => rfl
  | cons l lit ih => rw [List.cons_append, afterLit, if_pos rfl, ih]

theorem afterMnemonic_append (name : List Char) (h : cs.dropWhile isBlank = cs) :
    afterMnemonic name (name ++ ' ' :: cs) = some cs := by
  rw [afterMnemonic, afterLit_append]
  exact congrArg some h

/-- The digits of an operand end where no digit follows. -/
theorem hexOperand_hexText (name : List Char) (bs : List Byte) (h : rest.takeWhile isHexDigit = []) :
    hexOperand name (name ++ '=' :: (hexText bs ++ rest)) = some (bs, rest) := by
  have hdrop : rest.dropWhile isHexDigit = rest := by
    simpa [h] using List.takeWhile_append_dropWhile (p := isHexDigit) (l := rest)
  have hdigits : ∀ c ∈ hexText bs, isHexDigit c = true := fun _ => isHexDigit_of_mem_hexText
  have hafter : afterLit (name ++ ['=']) (name ++ '=' :: (hexText bs ++ rest)) = some (hexText bs ++ rest) := by
    simpa using afterLit_append (name ++ ['=']) (hexText bs ++ rest)
  simp only [hexOperand, hafter, List.takeWhile_append_of_pos hdigits, List.dropWhile_append_of_pos hdigits, h, hdrop,
    List.append_nil, hexBytes_hexText, Option.map_some]

theorem pinOperand_hexText (h4 : pinMin ≤ pin.length) (h8 : pin.length ≤ pinMax)
    (h : rest.takeWhile isHexDigit = []) :
    pinOperand (['p', 'i', 'n'] ++ '=' :: (hexText pin ++ rest)) = some (pin, rest) := by
  rw [pinOperand, hexOperand_hexText _ _ h]
  exact if_pos ⟨h4, h8⟩

/-! ## Lines -/

theorem semicolon_notMem_textOf (i : Instr) : ';' ∉ textOf i := by
  have hhex : ∀ bs, ';' ∉ hexText bs := fun _ h => absurd (isHexDigit_of_mem_hexText h) (by decide)
  cases i with
  | setup plen pin sec => simp [textOf, hhex]
  | verify plen pin excess => simp [textOf, hhex]

/-- A line without a comment that begins with a word. -/
theorem assemble_eq (hc : ';' ∉ cs) (hb : cs.dropWhile isBlank = cs) :
    assemble cs = (asmSetup cs).orElse fun _ => (asmVerify cs).orElse fun _ => asmFrame cs := by
  have htake : cs.takeWhile (· ≠ ';') = cs :=
    List.takeWhile_eq_self_iff.2 fun c hm => decide_eq_true fun h => hc (h ▸ hm)
  rw [assemble, htake, hb]

/-- The mnemonic and the PIN operand, which both commands begin with. -/
theorem mnemonic_pin_hexText (name : List Char) (h4 : pinMin ≤ pin.length) (h8 : pin.length ≤ pinMax)
    (h : rest.takeWhile isHexDigit = []) :
    (afterMnemonic name (name ++ ' ' :: (['p', 'i', 'n'] ++ '=' :: (hexText pin ++ rest)))).bind pinOperand =
      some (pin, rest) := by
  rw [afterMnemonic_append name rfl, Option.bind_some, pinOperand_hexText h4 h8 h]

theorem asmSetup_textOf {n : Byte} {sec : List Byte} (h : validSetup (some n) pin sec = true) :
    asmSetup (textOf (.setup (some n) pin sec)) = some (encode (.setup (some n) pin sec)) := by
  obtain ⟨h4, h8, hn⟩ := validSetup_pin h
  obtain ⟨-, -, -, hs⟩ := validSetup_iff.1 h
  have hlen : BitVec.ofNat 8 pin.length = n := by simp [hn]
  have hsec := hexOperand_hexText (rest := []) ['s', 'e', 'c', 'r', 'e', 't'] sec rfl
  have hpin := mnemonic_pin_hexText ['S', 'E', 'T', 'U', 'P'] h4 h8
    (rest := [',', ' ', 's', 'e', 'c', 'r', 'e', 't', '='] ++ hexText sec) rfl
  simp only [List.cons_append, List.nil_append, List.append_nil] at hpin hsec
  simp [textOf, asmSetup, hpin, hsec, List.dropWhile, isBlank, afterLit, onlyBlanks, secretLen, hs, hlen]

theorem asmVerify_textOf {n : Byte} (h : validVerify (some n) pin [] = true) :
    asmVerify (textOf (.verify (some n) pin [])) = some (encode (.verify (some n) pin [])) := by
  obtain ⟨h4, h8, hn⟩ := validVerify_pin h
  have hlen : BitVec.ofNat 8 pin.length = n := by simp [hn]
  have hpin := mnemonic_pin_hexText ['V', 'E', 'R', 'I', 'F', 'Y'] h4 h8 (rest := []) rfl
  simp only [List.cons_append, List.nil_append, List.append_nil] at hpin
  simp [textOf, asmVerify, hpin, onlyBlanks, hlen]

/-- Settles O8, word by word of the line. -/
theorem assemblerSpellsFrames : Obligations.AssemblerSpellsFrames := by
  constructor
  · intro n pin sec h
    rw [assemble_eq (semicolon_notMem_textOf _) rfl, asmSetup_textOf h]
    rfl
  · intro n pin h
    have hnot : asmSetup (textOf (.verify (some n) pin [])) = none := rfl
    rw [assemble_eq (semicolon_notMem_textOf _) rfl, hnot, asmVerify_textOf h]
    rfl

end Sys2Proof.Machine
end

section
/-! PROOFS. What the slot operations of the running command have left, over the steps. -/

namespace Sys2Proof.Machine

variable {c : Collaborators} {cfg : Cfg} {e e' : Env} {s : State} {b' : Block} {q : Option Request}

/-! ## The slots after a transaction -/

/-- Only a slot request changes the slots. -/
theorem Env.Touched.slots_eq (h : e.Touched cfg q e') (hq : ∀ i x, q ≠ some (.slot i x)) : e'.slots = e.slots := by
  cases h with
  | slot i x => exact absurd rfl (hq i x)
  | _ => rfl

/-- A slot operation that answers `Ok` keys its slot and leaves the others (R265). -/
theorem envAnswer_slotOk {i : Byte} {x o : Bytes32} {a : Answer}
    (h : envAnswer c cfg e (.slot i x) a = .answered (.slotOk o) e') :
    e'.slots[i.toNat]? = some (.keyed x) ∧ ∀ j, j ≠ i.toNat → e'.slots[j]? = e.slots[j]? := by
  obtain ⟨st, -, hst, -, rfl⟩ | ⟨_, hr, -⟩ := envAnswer_slot h
  · obtain ⟨hlen, -⟩ := List.getElem?_eq_some_iff.1 hst
    exact ⟨List.getElem?_set_self hlen, fun j hj => List.getElem?_set_ne hj.symm⟩
  · cases hr

/-- A slot that was keyed by `x`, or is the one that was just keyed by it, is keyed by `x`. -/
theorem keyed_after {l l' : List SlotState} {i j : Nat} {x : Bytes32} (hi : l'[i]? = some (.keyed x))
    (hother : ∀ j, j ≠ i → l'[j]? = l[j]?) (h : j ≠ i → l[j]? = some (.keyed x)) : l'[j]? = some (.keyed x) := by
  by_cases hj : j = i
  · exact hj ▸ hi
  · exact (hother j hj).trans (h hj)

/-! ## The account of the slots over the steps -/

/-- What the account of the slots says in a given phase. -/
theorem State.SlotsTracked.inPhase (h : s.SlotsTracked) {p : Phase} (hp : s.blk.phase = p) :
    (s.setBlk { s.blk with phase := p }).SlotsTracked := hp ▸ h

/-- The account speaks of no part of ENV but the slots. -/
theorem State.SlotsTracked.setEnv (h : s.SlotsTracked) (he : e'.slots = s.env.slots) : (s.setEnv e').SlotsTracked := by
  unfold State.SlotsTracked at h ⊢
  simp only [State.setEnv_env, State.setEnv_blk, State.setEnv_cfg, he]
  exact h

/-- The SETUP loop goes on, or ends, with every slot below `IDX` keyed by `U` (R145). -/
theorem State.setupLoop_slotsTracked {b : Block}
    (h : ∀ j < b.regs.idx.toNat, s.env.slots[j]? = some (.keyed b.regs.u)) :
    (s.setBlk (setupLoop s.cfg b)).SlotsTracked := by
  by_cases hi : b.regs.idx.toNat < s.cfg.rounds
  · rw [setupLoop_more hi]
    exact h
  · rw [setupLoop_done hi]
    exact fun j hj => h j (hj.trans_le (not_lt.1 hi))

/-- The re-commit loop goes on with the slots from `REC.CNT` to below `IDX` keyed by `U`; nothing is claimed where it ends
(R192). -/
theorem State.recommitLoop_slotsTracked {b : Block}
    (h : ∀ j < b.regs.idx.toNat, b.regs.record.cnt.toNat ≤ j → s.env.slots[j]? = some (.keyed b.regs.u)) :
    (s.setBlk (recommitLoop s.cfg b)).SlotsTracked := by
  by_cases hi : b.regs.idx.toNat + 2 ≤ s.cfg.rounds
  · rw [recommitLoop_more hi]
    exact h
  · rw [recommitLoop_done hi]
    trivial

/-- Every RESPONSE step keeps the account: a slot operation's `Ok` keys its slot, and the other transactions leave the
slots. The constructors not named lead to a phase of which the account claims nothing. -/
theorem Advance.slotsTracked {r : Response} (h : Advance s.cfg s.blk r b') (hi : s.Inv) (hs : s.SlotsTracked)
    (hkept : (∀ i x, s.blk.outstanding ≠ some (.slot i x)) → e'.slots = s.env.slots)
    (hkeyed : ∀ i x o, s.blk.outstanding = some (.slot i x) → r = .slotOk o →
      e'.slots[i.toNat]? = some (.keyed x) ∧ ∀ j, j ≠ i.toNat → e'.slots[j]? = s.env.slots[j]?) :
    ((s.setEnv e').setBlk b').SlotsTracked := by
  have hrounds : s.cfg.rounds ≤ 128 := hi.legal.2.1
  have hold {p : Phase} (hp : s.blk.phase = p) (hq : ∀ i x, phaseRequest s.cfg s.blk.regs p ≠ some (.slot i x)) :
      ((s.setEnv e').setBlk { s.blk with phase := p }).SlotsTracked :=
    (hs.setEnv (hkept fun i x => hi.block.waitsIn hp ▸ hq i x)).inPhase hp
  cases h with
  | sMacV _ v => exact (s.setEnv e').setupLoop_slotsTracked fun j hj => absurd hj (Nat.not_lt_zero j)
  | sSlotA hp o =>
    obtain ⟨hkey, hother⟩ := hkeyed _ _ _ (hi.block.waitsIn hp) rfl
    have hbelow : ∀ j < s.blk.regs.idx.toNat, s.env.slots[j]? = some (.keyed s.blk.regs.u) := hs.inPhase hp
    exact fun j hj => keyed_after hkey hother fun hne => hbelow j (lt_of_le_of_ne hj hne)
  | sSlotB hp w =>
    obtain ⟨hkey, hother⟩ := hkeyed _ _ _ (hi.block.waitsIn hp) rfl
    have hupto : ∀ j ≤ s.blk.regs.idx.toNat, s.env.slots[j]? = some (.keyed s.blk.regs.u) := hs.inPhase hp
    exact ⟨fun j hj => (hother j (Nat.ne_of_lt hj)).trans (hupto j (Nat.le_of_lt hj)), hkey⟩
  | sSlotC hp o =>
    obtain ⟨hkey, hother⟩ := hkeyed _ _ _ (hi.block.waitsIn hp) rfl
    obtain ⟨hbelow, -⟩ :
      (∀ j < s.blk.regs.idx.toNat, s.env.slots[j]? = some (.keyed s.blk.regs.u)) ∧ _ := hs.inPhase hp
    exact fun j hj => keyed_after hkey hother fun hne => hbelow j (lt_of_le_of_ne hj hne)
  | sMacK hp k _ hk =>
    obtain ⟨-, rfl⟩ := setupAfterMacK_ok hk
    obtain ⟨-, hidx⟩ := hi.block.countersIn hp
    have hnext : (s.blk.regs.idx + 1).toNat = s.blk.regs.idx.toNat + 1 := toNat_succ (by omega)
    have hupto : ∀ j ≤ s.blk.regs.idx.toNat, e'.slots[j]? = some (.keyed s.blk.regs.u) := hold hp nofun
    exact (s.setEnv e').setupLoop_slotsTracked fun j hj => hupto j (Nat.le_of_lt_succ (hj.trans_eq hnext))
  | sWrite hp => exact hold hp nofun
  | vRead _ l =>
    obtain ⟨f, -, heq⟩ | ⟨rec, -, heq | ⟨-, heq⟩⟩ := verifyAfterRead_cases s.cfg s.blk l
    · rw [heq]
      trivial
    · rw [heq]
      trivial
    · rw [heq]
      trivial
  | vSlot hp w => exact (hkeyed _ _ _ (hi.block.waitsIn hp) rfl).1
  | vMacK hp k _ hk =>
    obtain ⟨x, -, rfl⟩ := verifyAfterMacK_ok hk
    -- an opaque block: the unifier would otherwise compare its bytes
    generalize xor32 x k = y
    exact hold hp nofun
  | vMacT hp t =>
    obtain heq | heq := verifyAfterMacT_cases s.blk t
    · rw [heq]
      exact hold hp nofun
    · rw [heq]
      trivial
  | vMacU _ u => exact (s.setEnv e').recommitLoop_slotsTracked fun j hlt hle => absurd hlt (Nat.not_lt.2 hle)
  | vRecommit hp o =>
    obtain ⟨hkey, hother⟩ := hkeyed _ _ _ (hi.block.waitsIn hp) rfl
    obtain ⟨-, hidx⟩ := hi.block.countersIn hp
    have hnext : (s.blk.regs.idx + 1).toNat = s.blk.regs.idx.toNat + 1 := toNat_succ (by omega)
    have hfrom : ∀ j < s.blk.regs.idx.toNat, s.blk.regs.record.cnt.toNat ≤ j →
        s.env.slots[j]? = some (.keyed s.blk.regs.u) := hs.inPhase hp
    exact (s.setEnv e').recommitLoop_slotsTracked fun j hlt hle => keyed_after hkey hother fun hne =>
      hfrom j (lt_of_le_of_ne (Nat.le_of_lt_succ (hlt.trans_eq hnext)) hne) hle
  | _ => trivial

/-- Every step keeps the account: only a RESPONSE step leads to a phase of which it claims something. -/
theorem Moves.slotsTracked (h : Moves c s.cfg s.env s.blk e' b') (hi : s.Inv) (hs : s.SlotsTracked) :
    ((s.setEnv e').setBlk b').SlotsTracked := by
  cases h with
  | hold => exact hs
  | answer ho he hb =>
    refine hb.slotsTracked hi hs (ho ▸ (envAnswer_touched he).slots_eq) fun i x o hslot hr => ?_
    obtain rfl := Option.some.inj (ho.symm.trans hslot)
    exact envAnswer_slotOk (hr ▸ he)
  | _ => trivial

/-- Settles O45, by the kinds of a step. As a step leaves CFG, the account of the new state is that of the old one with
the new ENV and BLOCK. -/
theorem everyStepKeepsSlotsTracked : Obligations.EveryStepKeepsSlotsTracked := by
  intro s t hi hs h
  obtain ⟨hcfg, hm⟩ := systemStep_moves h
  have ht := hm.slotsTracked hi hs
  unfold State.SlotsTracked at ht ⊢
  rw [hcfg]
  exact ht

end Sys2Proof.Machine
end

section
/-! PROOFS. SETUP's ACCEPT step, and the RESPONSE steps of a willing environment, port by port. -/

namespace Sys2Proof.Machine

variable {s t : State} {is : List Input} {b : Block}

/-! ## The ACCEPT step -/

/-- Settles O9: a valid frame's operands are loaded, and step 1's ERASE is requested. -/
theorem setupAccepted : Obligations.SetupAccepted := fun _ _ _ _ hp hv => exec_setup_valid hp hv

/-- Settles O11, by the ways the ACCEPT step of each command ends; one that ends in IDLE claims nothing of the registers. -/
theorem acceptFrame : Obligations.AcceptFrame := by
  intro i s t h
  cases i with
  | setup plen pin sec =>
    obtain ⟨hp, rfl⟩ | ⟨hp, -, rfl⟩ | ⟨hp, -, rfl⟩ := execSetup_next h
    · exact ⟨rfl, rfl, fun _ _ => rfl, rfl, rfl, rfl, rfl, fun _ => rfl, fun hidle => absurd hidle hp⟩
    · exact ⟨rfl, rfl, fun _ _ => rfl, rfl, rfl, rfl, rfl, fun hn => absurd hp hn,
        fun _ _ => ⟨rfl, rfl, rfl, rfl, rfl, rfl, rfl, rfl, rfl, rfl, nofun⟩⟩
    · exact ⟨rfl, rfl, fun _ _ => rfl, rfl, rfl, rfl, rfl, fun hn => absurd hp hn, fun _ hn => absurd rfl hn⟩
  | verify plen pin excess =>
    obtain ⟨hp, rfl⟩ | ⟨hp, -, rfl⟩ | ⟨hp, -, rfl⟩ := execVerify_next h
    · exact ⟨rfl, rfl, fun _ _ => rfl, rfl, rfl, rfl, rfl, fun _ => rfl, fun hidle => absurd hidle hp⟩
    · exact ⟨rfl, rfl, fun _ _ => rfl, rfl, rfl, rfl, rfl, fun hn => absurd hp hn,
        fun _ _ => ⟨rfl, rfl, rfl, rfl, rfl, rfl, rfl, rfl, rfl, rfl, fun _ _ _ _ => rfl⟩⟩
    · exact ⟨rfl, rfl, fun _ _ => rfl, rfl, rfl, rfl, rfl, fun hn => absurd hp hn, fun _ hn => absurd rfl hn⟩

/-! ## The RESPONSE step -/

/-- The step in which the environment answers the outstanding request and the block handles the response (R260). -/
theorem State.Awaits.step_answered {a : Answer} {req : Request} {r : Response} {e : Env} (h : s.Awaits a is)
    (ho : s.blk.outstanding = some req) (he : envAnswer Config.collaborators s.cfg s.env req a = .answered r e)
    (hb : resume s.cfg s.blk r = .ok b) : step s = .next { s with inputs := is, env := e, blk := b } := by
  rw [h.step_eq]
  exact answerNext_of (s := s.setInputs is) ho he hb

/-- The step in which the MAC answers its tag (R262). -/
theorem State.Awaits.step_mac {key : Bytes32} {msg : List Byte} (h : s.Awaits .ok is)
    (ho : s.blk.outstanding = some (.mac key msg)) (hb : resume s.cfg s.blk (.macOk (Config.mac key msg)) = .ok b) :
    step s = .next { s with inputs := is, blk := b } :=
  h.step_answered ho rfl hb

/-- The step in which a slot answers its output and is keyed by the input (R265). -/
theorem State.Awaits.step_slot {i : Byte} {x : Bytes32} {st : SlotState} (h : s.Awaits .ok is)
    (ho : s.blk.outstanding = some (.slot i x)) (hst : s.env.slots[i.toNat]? = some st)
    (hb : resume s.cfg s.blk (.slotOk (Config.slotOut i st x)) = .ok b) :
    step s = .next { s with
      inputs := is, env := { s.env with slots := s.env.slots.set i.toNat (.keyed x) }, blk := b } := by
  refine h.step_answered ho ?_ hb
  simp only [envAnswer, serve, hst]
  rfl

/-- The step in which the record's unit is written (R76). -/
theorem State.Awaits.step_write {a : Nat} {l : List Byte} (h : s.Awaits .ok is)
    (ho : s.blk.outstanding = some (.write a l)) (hb : resume s.cfg s.blk .writeOk = .ok b) :
    step s = .next { s with inputs := is, env := { s.env with mem := s.env.mem.write a l }, blk := b } :=
  h.step_answered ho rfl hb

/-- The slot a request names holds something (R266). -/
theorem State.Inv.slot_exists (h : s.Inv) {i : Byte} {x : Bytes32} (ho : s.blk.outstanding = some (.slot i x)) :
    ∃ st, s.env.slots[i.toNat]? = some st := by
  have hi : i.toNat < s.env.slots.length := by
    rw [h.slotCount]
    exact phaseRequest_slot (h.block.waits.symm.trans ho) h.block.counters
  exact ⟨_, List.getElem?_eq_getElem hi⟩

theorem State.Awaits.noFault {a : Answer} (h : s.Awaits a is) : s.blk.faultCode = .none :=
  (h.inv.block.busy h.running).noFault

/-- Settles O30: `AlreadyErased` goes on in SETUP, and is an error in VERIFY's two ERASEs. -/
theorem alreadyErasedByMode : Obligations.AlreadyErasedByMode := by
  intro s is h
  have hverify (hr : resume s.cfg s.blk .alreadyErased = .ok (s.blk.raise .storageError))
      (ho : s.blk.outstanding = some (.erase s.cfg.recordAddr)) :
      step s = .next { s with inputs := is, blk := Block.completed s.cfg .none .storageError zero32 } := by
    rw [Block.raise_eq h.inv.block.encCount, h.noFault] at hr
    exact h.step_answered ho rfl hr
  refine ⟨fun hp => ?_, ?_⟩
  · exact ⟨_, h.step_answered (h.inv.block.waitsIn hp) rfl (resume_sErase hp), rfl, rfl,
      toNat_rounds h.inv.legal.2.1⟩
  · rintro (hp | hp)
    · exact hverify (resume_vEraseDec hp) (h.inv.block.waitsIn hp)
    · exact hverify (resume_vEraseRst hp) (h.inv.block.waitsIn hp)

/-- Settles O35, phase by phase; what the slot outputs in S_SLOT_B rests on the account of the slots. -/
theorem setupSlotOperations : Obligations.SetupSlotOperations := by
  intro s is h hs
  refine ⟨fun hp => ?_, fun hp => ?_, fun hp => ?_⟩
  · have ho : s.blk.outstanding = some (.slot s.blk.regs.idx s.blk.regs.u) := h.inv.block.waitsIn hp
    obtain ⟨st, hst⟩ := h.inv.slot_exists ho
    exact ⟨ho, _, h.step_slot ho hst (resume_sSlotA hp), rfl, rfl, rfl⟩
  · have ho : s.blk.outstanding = some (.slot s.blk.regs.idx s.blk.regs.v) := h.inv.block.waitsIn hp
    have hupto : ∀ j ≤ s.blk.regs.idx.toNat, s.env.slots[j]? = some (.keyed s.blk.regs.u) := hs.inPhase hp
    exact ⟨ho, _, h.step_slot ho (hupto _ le_rfl) (resume_sSlotB hp), rfl, rfl, rfl⟩
  · have ho : s.blk.outstanding = some (.slot s.blk.regs.idx s.blk.regs.u) := h.inv.block.waitsIn hp
    obtain ⟨st, hst⟩ := h.inv.slot_exists ho
    exact ⟨ho, _, h.step_slot ho hst (resume_sSlotC hp), rfl, rfl, rfl⟩

/-- The SETUP loop's test changes no register of `Regs` (R145). -/
theorem setupLoop_regs (cfg : Cfg) (b : Block) : (setupLoop cfg b).regs = b.regs := (setupLoop_keeps cfg b).2.2

/-- The phase the SETUP loop's test leads to (R145). -/
theorem setupLoop_phase (cfg : Cfg) (b : Block) :
    (setupLoop cfg b).phase = if b.regs.idx.toNat < cfg.rounds then .sSlotA else .sWrite := by
  split
  · rw [setupLoop_more ‹_›]
    rfl
  · rw [setupLoop_done ‹_›]
    rfl

/-- Settles O36: the index is in the record, so the block masks the secret and makes the loop test. -/
theorem setupMasksSecret : Obligations.SetupMasksSecret := by
  intro s is h hp
  have ho : s.blk.outstanding = some (.mac s.blk.regs.w s.blk.regs.pinMsg) := h.inv.block.waitsIn hp
  obtain ⟨-, hidx⟩ := h.inv.block.countersIn hp
  have hrounds : s.cfg.rounds ≤ 128 := h.inv.legal.2.1
  have hnext : (s.blk.regs.idx + 1).toNat = s.blk.regs.idx.toNat + 1 := toNat_succ (by omega)
  have hlen : s.blk.regs.idx.toNat < s.blk.regs.record.enc.length := h.inv.block.encCount ▸ hidx
  refine ⟨ho, _, _, rfl, h.step_mac ho ((resume_sMacK hp).trans (if_pos hlen)), rfl, setupLoop_regs _ _, ?_, ?_⟩
  · exact (congrArg (fun r : Regs => r.idx.toNat) (setupLoop_regs _ _)).trans hnext
  · rw [← hnext]
    exact setupLoop_phase _ _

/-- Settles O37: the outstanding WRITE is of the record to its unit, and its `Ok` leads to the sequence's next MAC. -/
theorem writePersistsRecord : Obligations.WritePersistsRecord := by
  intro s is h hp
  have hunit : (s.env.mem.write s.cfg.recordAddr (encodeRecord s.blk.regs.record)).unit s.cfg.recordAddr =
      .data (encodeRecord s.blk.regs.record) := Memory.unit_write_same _ _ _
  obtain hp | hp | hp := hp
  · exact ⟨_, h.step_write (h.inv.block.waitsIn hp) (resume_sWrite hp), hunit, rfl, rfl,
      fun _ => rfl, fun hq => (nomatch hp.symm.trans hq), fun hq => (nomatch hp.symm.trans hq)⟩
  · exact ⟨_, h.step_write (h.inv.block.waitsIn hp) (resume_vWriteDec hp), hunit, rfl, rfl,
      fun hq => (nomatch hp.symm.trans hq), fun _ => rfl, fun hq => (nomatch hp.symm.trans hq)⟩
  · exact ⟨_, h.step_write (h.inv.block.waitsIn hp) (resume_vWriteRst hp), hunit, rfl, rfl,
      fun hq => (nomatch hp.symm.trans hq), fun hq => (nomatch hp.symm.trans hq), fun _ => rfl⟩

/-- Settles O41: the outstanding MAC is that of `S` and the final label, and its tag completes the command. -/
theorem finalKeyCompletes : Obligations.FinalKeyCompletes := by
  intro s is h
  have hdone (st : Status) (fk : Bytes32) :
      (s.blk.setRegs (s.blk.regs.setFk fk)).complete st fk = Block.completed s.cfg .none st fk := by
    rw [Block.complete_eq (b := s.blk.setRegs (s.blk.regs.setFk fk)) h.inv.block.encCount, Block.setRegs_faultCode, h.noFault]
  refine ⟨fun hp => ?_, fun hp => ?_⟩
  · exact h.step_mac (h.inv.block.waitsIn hp) ((resume_sMacFinal hp).trans (congrArg _ (hdone _ _)))
  · exact h.step_mac (h.inv.block.waitsIn hp) ((resume_vMacFinal hp).trans (congrArg _ (hdone _ _)))

end Sys2Proof.Machine
end

section
/-! PROOFS. Runs of a command: what no run changes, and how a run with every answer `Ok` goes from step to step. -/

namespace Sys2Proof.Machine

variable {s t u : State} {cfg : Cfg} {b : Block} {f : Frame} {fs : List Frame} {n : Nat} {is : List Input}
  {key : Bytes32} {msg : List Byte}

/-! ## Every run -/

/-- A run of at least one step begins with a step that goes on. -/
theorem runSteps_succ_next (h : runSteps (n + 1) s = .next u) : ∃ t, step s = .next t ∧ runSteps n t = .next u := by
  rw [runSteps] at h
  cases hs : step s with
  | next t => exact ⟨t, rfl, by rwa [hs] at h⟩
  | fault _ =>
    rw [hs] at h
    cases h
  | refused _ =>
    rw [hs] at h
    cases h

/-- No run changes CFG or a store unit other than the record's (R30, R71). -/
theorem runSteps_frame (hi : s.Inv) (h : runSteps n s = .next u) :
    u.cfg = s.cfg ∧ ∀ a, a ≠ s.cfg.recordAddr → u.env.mem.unit a = s.env.mem.unit a := by
  induction n generalizing s with
  | zero =>
    cases h
    exact ⟨rfl, fun _ _ => rfl⟩
  | succ n ih =>
    obtain ⟨t, hs, h⟩ := runSteps_succ_next h
    obtain ⟨hcfg, hunit, -⟩ := onlyTheRequestedTargetChanges s t hi hs
    obtain ⟨hcfg', hunit'⟩ := ih (everyStepKeepsInv s t hi hs) h
    exact ⟨hcfg'.trans hcfg, fun a ha => (hunit' a (hcfg ▸ ha)).trans (hunit a ha)⟩

/-! ## A run with every answer `Ok` -/

/-- A state on a run in which the environment answers `Ok` to the next `n` transactions. -/
structure State.RunsOk (cfg : Cfg) (fs : List Frame) (n : Nat) (is : List Input) (s : State) : Prop where
  cfg : s.cfg = cfg
  inv : s.Inv
  tracked : s.SlotsTracked
  unrefused : s.refusal = none
  host : s.host = fs
  answers : s.inputs = allOk n ++ is

/-- In IDLE nothing is claimed of the slots. -/
theorem State.slotsTracked_of_idle (hp : s.blk.phase = .idle) : s.SlotsTracked := by
  unfold State.SlotsTracked
  rw [hp]
  trivial

theorem State.StartsAllOk.presents (h : s.StartsAllOk f fs (n + 1) is) : s.Presents f fs :=
  ⟨h.unrefused, h.inv.legal, by rw [State.noReset, h.answers]; rfl, h.idle, h.next⟩

/-- The ACCEPT step runs the command of the frame presented (R260). -/
theorem State.Presents.step_exec {i : Instr} (h : s.Presents f fs) (hf : decode f = .ok i) :
    step s = exec i (s.passQuiet.setHost fs) := by
  rw [h.step_eq, acceptNext, State.passQuiet_host, h.next]
  simp only [hf]

/-- The state after the ACCEPT step that begins a run. -/
theorem State.StartsAllOk.accepted (h : s.StartsAllOk f fs (n + 1) is)
    (hs : step s = .next ((s.passQuiet.setHost fs).setBlk b)) :
    ((s.passQuiet.setHost fs).setBlk b).RunsOk s.cfg fs (n + 1) is where
  cfg := rfl
  inv := everyStepKeepsInv _ _ h.inv hs
  tracked := everyStepKeepsSlotsTracked _ _ h.inv (State.slotsTracked_of_idle h.idle) hs
  unrefused := h.unrefused
  host := rfl
  answers := congrArg afterQuiet h.answers

/-- The next step of a run in a running phase is a RESPONSE step. -/
theorem State.RunsOk.awaits (h : s.RunsOk cfg fs (n + 1) is) {p : Phase} (hp : s.blk.phase = p)
    (hr : p.running = true) : s.Awaits .ok (allOk n ++ is) := ⟨h.unrefused, h.inv, hp ▸ hr, h.answers⟩

/-- The state after a RESPONSE step of a run. -/
theorem State.RunsOk.answered (h : s.RunsOk cfg fs (n + 1) is) {p : Phase} (hp : s.blk.phase = p)
    (hr : p.running = true) (hs : step s = .next t) : t.RunsOk cfg fs n is := by
  obtain ⟨hcfg, hhost, hinputs, hrefusal⟩ := answerNext_frame ((h.awaits hp hr).step_eq.symm.trans hs)
  exact {
    cfg := hcfg.trans h.cfg
    inv := everyStepKeepsInv s t h.inv hs
    tracked := everyStepKeepsSlotsTracked s t h.inv h.tracked hs
    unrefused := hrefusal.trans h.unrefused
    host := hhost.trans h.host
    answers := hinputs }

/-- A MAC transaction of a run. -/
theorem State.RunsOk.mac (h : s.RunsOk cfg fs (n + 1) is) {p : Phase} (hp : s.blk.phase = p)
    (hq : phaseRequest s.cfg s.blk.regs p = some (.mac key msg))
    (hb : resume s.cfg s.blk (.macOk (Config.mac key msg)) = .ok b) :
    ∃ t, step s = .next t ∧ t.RunsOk cfg fs n is ∧ t.blk = b := by
  have ho : s.blk.outstanding = some (.mac key msg) := (h.inv.block.waitsIn hp).trans hq
  have hr : p.running = true := hp ▸ h.inv.block.running_of_outstanding ho
  have hs := (h.awaits hp hr).step_mac ho hb
  exact ⟨_, hs, h.answered hp hr hs, rfl⟩

end Sys2Proof.Machine
end

section
/-! PROOFS. SETUP's whole run, from its ACCEPT step to the final key. -/

namespace Sys2Proof.Machine

variable {s : State} {cfg : Cfg} {fs : List Frame} {n : Nat} {is : List Input} {pin sec : List Byte}

/-! ## SETUP's transactions before its loop -/

/-- SETUP goes on after its ERASE, whatever the unit held (R142, R268). -/
theorem State.RunsOk.setup_erase (h : s.RunsOk cfg fs (n + 1) is) (hp : s.blk.phase = .sErase) :
    ∃ t, step s = .next t ∧ t.RunsOk cfg fs n is ∧ t.blk = setupAfterErase s.cfg s.blk := by
  have ho : s.blk.outstanding = some (.erase s.cfg.recordAddr) := h.inv.block.waitsIn hp
  have ha := h.awaits hp rfl
  cases hunit : s.env.mem.unit s.cfg.recordAddr with
  | erased =>
    have hs := ha.step_answered ho (envAnswer_erase_erased hunit) (resume_sErase hp)
    exact ⟨_, hs, h.answered hp rfl hs, rfl⟩
  | data l =>
    have hs := ha.step_answered ho (envAnswer_erase_data hunit) (resume_sErase hp)
    exact ⟨_, hs, h.answered hp rfl hs, rfl⟩

/-- `E_i`: the secret masked with the round key of slot `i` (R149). -/
def setupBlock (pin sec : List Byte) (i : Nat) : Bytes32 :=
  xor32 (bytes32 sec) (Config.mac
    (Config.slotOut (BitVec.ofNat 8 i) (.keyed (Config.mac (bytes32 sec) [0x01])) (Config.mac zero32 pin)) pin)

/-- The record SETUP writes (R150). -/
def setupRecord (rounds : Nat) (pin sec : List Byte) : Record :=
  { cnt := BitVec.ofNat 8 rounds, enc := (List.range rounds).map (setupBlock pin sec),
    tag := Config.mac (bytes32 sec) [0x00] }

/-- The registers of SETUP after `i` iterations of its loop (R144 to R149). -/
structure Regs.SetupLoop (rounds : Nat) (pin sec : List Byte) (i : Nat) (r : Regs) : Prop where
  pinMsg : r.pinMsg = pin
  secret : r.s = bytes32 sec
  slotInput : r.u = Config.mac (bytes32 sec) [0x01]
  pinTag : r.v = Config.mac zero32 pin
  index : r.idx.toNat = i
  count : r.record.cnt = BitVec.ofNat 8 rounds
  blocks : r.record.enc.take i = (List.range i).map (setupBlock pin sec)
  tag : r.record.tag = Config.mac (bytes32 sec) [0x00]

/-- The phase of SETUP's loop after `i` iterations (R145). -/
def setupPhase (rounds i : Nat) : Phase := if i < rounds then .sSlotA else .sWrite

/-- The four transactions from the ERASE to the loop (R142 to R145). -/
theorem State.RunsOk.setup_prologue (h : s.RunsOk cfg fs (n + 4) is) (hp : s.blk.phase = .sErase)
    (hpin : s.blk.regs.pinMsg = pin) (hsec : s.blk.regs.s = bytes32 sec) :
    ∃ t, runSteps 4 s = .next t ∧ t.RunsOk cfg fs n is ∧ t.blk.phase = setupPhase cfg.rounds 0 ∧
      t.blk.regs.SetupLoop cfg.rounds pin sec 0 := by
  obtain ⟨t₁, hs₁, h₁, hb₁⟩ := h.setup_erase hp
  have hp₁ : t₁.blk.phase = .sMacTag := congrArg Block.phase hb₁
  obtain ⟨t₂, hs₂, h₂, hb₂⟩ := h₁.mac hp₁ rfl (resume_sMacTag hp₁)
  have hp₂ : t₂.blk.phase = .sMacU := congrArg Block.phase hb₂
  obtain ⟨t₃, hs₃, h₃, hb₃⟩ := h₂.mac hp₂ rfl (resume_sMacU hp₂)
  have hp₃ : t₃.blk.phase = .sMacV := congrArg Block.phase hb₃
  obtain ⟨t₄, hs₄, h₄, hb₄⟩ := h₃.mac hp₃ rfl (resume_sMacV hp₃)
  have hrun : runSteps 4 s = .next t₄ :=
    runSteps_succ hs₁ (runSteps_succ hs₂ (runSteps_succ hs₃ (runSteps_succ hs₄ rfl)))
  have hr₁ : t₁.blk.regs = s.blk.regs.setRecord (s.blk.regs.record.load cfg.rounds) :=
    h.cfg ▸ congrArg Block.regs hb₁
  have hr₂ : t₂.blk.regs = t₁.blk.regs.setRecord (t₁.blk.regs.record.setTag (Config.mac t₁.blk.regs.s labelTag)) :=
    congrArg Block.regs hb₂
  have hr₃ : t₃.blk.regs = t₂.blk.regs.setU (Config.mac t₂.blk.regs.s labelRekey) := congrArg Block.regs hb₃
  have hr₄ : t₄.blk.regs = (t₃.blk.regs.setV (Config.mac zero32 t₃.blk.regs.pinMsg)).setIdx 0 :=
    (congrArg Block.regs hb₄).trans (setupLoop_regs _ _)
  refine ⟨t₄, hrun, h₄, ?_, ?_⟩
  · rw [hb₄, h₃.cfg]
    exact setupLoop_phase _ _
  · rw [hr₄, hr₃, hr₂, hr₁]
    exact {
      pinMsg := hpin
      secret := hsec
      slotInput := congrArg (Config.mac · labelRekey) hsec
      pinTag := congrArg (Config.mac zero32) hpin
      index := rfl
      count := rfl
      blocks := rfl
      tag := congrArg (Config.mac · labelTag) hsec }

/-! ## SETUP's loop -/

/-- The registers after one more iteration: block `i` holds `E_i` (R149). -/
theorem Regs.SetupLoop.succ {rounds i : Nat} {r r' : Regs} {w k : Bytes32} (h : r.SetupLoop rounds pin sec i)
    (hi : i < r.record.enc.length) (hw : w = Config.slotOut r.idx (.keyed r.u) r.v) (hk : k = Config.mac w r.pinMsg)
    (hr : r' = { r with
      w := w, k := k, idx := r.idx + 1,
      record := { r.record with enc := r.record.enc.set r.idx.toNat (xor32 r.s k) } })
    (hidx : r'.idx.toNat = r.idx.toNat + 1) : r'.SetupLoop rounds pin sec (i + 1) := by
  have hof : r.idx = BitVec.ofNat 8 i := by rw [← h.index, BitVec.ofNat_toNat, BitVec.setWidth_eq]
  have hblock : xor32 r.s k = setupBlock pin sec i := by
    rw [hk, hw, h.secret, h.slotInput, h.pinTag, h.pinMsg, hof, setupBlock]
  rw [hblock] at hr
  rw [h.index] at hidx
  subst hr
  exact { h with
    index := hidx
    blocks := by
      rw [h.index, List.take_add_one, List.take_set_of_le (le_refl i), h.blocks, List.getElem?_set_self hi,
        List.range_succ, List.map_append]
      rfl }

/-- One iteration of the loop (R146 to R149). -/
theorem State.RunsOk.setup_iteration (h : s.RunsOk cfg fs (n + 4) is) {i : Nat} (hi : i < cfg.rounds)
    (hp : s.blk.phase = .sSlotA) (hl : s.blk.regs.SetupLoop cfg.rounds pin sec i) :
    ∃ t, runSteps 4 s = .next t ∧ t.RunsOk cfg fs n is ∧ t.blk.phase = setupPhase cfg.rounds (i + 1) ∧
      t.blk.regs.SetupLoop cfg.rounds pin sec (i + 1) := by
  obtain ⟨hA, -, -⟩ := setupSlotOperations s _ (h.awaits hp rfl) h.tracked
  obtain ⟨-, t₁, hs₁, hp₁, hr₁, -⟩ := hA hp
  have h₁ := h.answered hp rfl hs₁
  obtain ⟨-, hB, -⟩ := setupSlotOperations t₁ _ (h₁.awaits hp₁ rfl) h₁.tracked
  obtain ⟨-, t₂, hs₂, hp₂, hr₂, -⟩ := hB hp₁
  have h₂ := h₁.answered hp₁ rfl hs₂
  obtain ⟨-, -, hC⟩ := setupSlotOperations t₂ _ (h₂.awaits hp₂ rfl) h₂.tracked
  obtain ⟨-, t₃, hs₃, hp₃, hr₃, -⟩ := hC hp₂
  have h₃ := h₂.answered hp₂ rfl hs₃
  obtain ⟨-, t₄, k, hk, hs₄, -, hr₄, hidx, hp₄⟩ := setupMasksSecret t₃ _ (h₃.awaits hp₃ rfl) hp₃
  have h₄ := h₃.answered hp₃ rfl hs₄
  have hrun : runSteps 4 s = .next t₄ :=
    runSteps_succ hs₁ (runSteps_succ hs₂ (runSteps_succ hs₃ (runSteps_succ hs₄ rfl)))
  have henc : i < s.blk.regs.record.enc.length := by rwa [h.inv.block.encCount, h.cfg]
  refine ⟨t₄, hrun, h₄, ?_, ?_⟩
  · rw [hp₄, h₃.cfg, hr₃, hr₂, hr₁, ← hl.index]
    rfl
  · rw [hr₃, hr₂, hr₁] at hidx hr₄ hk
    exact hl.succ henc rfl hk hr₄ hidx

/-- The loop from its test after `i` iterations to its end (R145). -/
theorem State.RunsOk.setup_loop {k i : Nat} (hk : i + k = cfg.rounds) (h : s.RunsOk cfg fs (n + 4 * k) is)
    (hp : s.blk.phase = setupPhase cfg.rounds i) (hl : s.blk.regs.SetupLoop cfg.rounds pin sec i) :
    ∃ t, runSteps (4 * k) s = .next t ∧ t.RunsOk cfg fs n is ∧ t.blk.phase = .sWrite ∧
      t.blk.regs.SetupLoop cfg.rounds pin sec cfg.rounds := by
  induction k generalizing s i with
  | zero =>
    obtain rfl : i = cfg.rounds := hk
    exact ⟨s, rfl, h, hp.trans (if_neg (lt_irrefl _)), hl⟩
  | succ k ih =>
    have hi : i < cfg.rounds := by omega
    obtain ⟨t, ht, h', hp', hl'⟩ := State.RunsOk.setup_iteration (n := n + 4 * k) h hi (hp.trans (if_pos hi)) hl
    obtain ⟨u, hu, hrest⟩ := ih (by omega) h' hp' hl'
    refine ⟨u, ?_, hrest⟩
    rw [Nat.mul_succ, Nat.add_comm]
    exact (runSteps_add 4 (4 * k) ht).trans hu

/-! ## SETUP's end, and the whole run -/

/-- After the whole loop `REC` is the record of the secret and the PIN (R150). -/
theorem Regs.SetupLoop.record_eq {rounds : Nat} {r : Regs} (h : r.SetupLoop rounds pin sec rounds)
    (hlen : r.record.enc.length = rounds) : r.record = setupRecord rounds pin sec := by
  have henc : r.record.enc = (List.range rounds).map (setupBlock pin sec) := by
    rw [← h.blocks, ← hlen, List.take_length]
  rw [setupRecord, ← h.count, ← henc, ← h.tag]

/-- While SETUP waits for its final key, every slot is keyed by `U` (R148). -/
theorem State.SlotsTracked.all_keyed (h : s.SlotsTracked) (hi : s.Inv) (hp : s.blk.phase = .sMacFinal) :
    s.env.slots = List.replicate s.cfg.rounds (.keyed s.blk.regs.u) := by
  have hkeyed : ∀ j < s.cfg.rounds, s.env.slots[j]? = some (.keyed s.blk.regs.u) := h.inPhase hp
  refine List.ext_getElem (by rw [hi.slotCount, List.length_replicate]) fun j hj _ => ?_
  rw [List.getElem_replicate]
  exact Option.some.inj ((List.getElem?_eq_getElem hj).symm.trans (hkeyed j (hi.slotCount ▸ hj)))

/-- The WRITE and the final key (R150 to R152). -/
theorem State.RunsOk.setup_end (h : s.RunsOk cfg fs 2 is) (hp : s.blk.phase = .sWrite)
    (hl : s.blk.regs.SetupLoop cfg.rounds pin sec cfg.rounds) :
    ∃ t, runSteps 2 s = .next t ∧
      t.blk = Block.completed cfg .none .ok (Config.mac (bytes32 sec) [0x32]) ∧
      t.store = .data (encodeRecord (setupRecord cfg.rounds pin sec)) ∧
      t.env.slots = List.replicate cfg.rounds (.keyed (Config.mac (bytes32 sec) [0x01])) ∧ t.RunsOk cfg fs 0 is := by
  obtain ⟨t, ht, hstore, -, hregs, hp', -, -⟩ := writePersistsRecord s _ (h.awaits hp rfl) (.inl hp)
  have hp' := hp' hp
  have h' := h.answered hp rfl ht
  obtain ⟨hfinal, -⟩ := finalKeyCompletes t _ (h'.awaits hp' rfl)
  have hu := hfinal hp'
  have hrec := hl.record_eq (h.inv.block.encCount.trans (congrArg Cfg.rounds h.cfg))
  refine ⟨_, runSteps_succ ht (runSteps_succ hu rfl), ?_, ?_, ?_, h'.answered hp' rfl hu⟩
  · rw [hregs, hl.secret, h'.cfg]
  · exact hstore.trans (by rw [hrec])
  · exact (h'.tracked.all_keyed h'.inv hp').trans (by rw [hregs, hl.slotInput, h'.cfg])

/-- SETUP's ACCEPT step begins the run with its operands loaded (R141). -/
theorem State.StartsAllOk.setup_accepted {k : Byte} (h : s.StartsAllOk (encode (.setup (some k) pin sec)) fs (n + 1) is)
    (hv : validSetup (some k) pin sec = true) :
    ∃ t, step s = .next t ∧ t.RunsOk s.cfg fs (n + 1) is ∧ t.blk.phase = .sErase ∧ t.blk.regs.pinMsg = pin ∧
      t.blk.regs.s = bytes32 sec := by
  obtain ⟨-, h8, hk, -⟩ := validSetup_iff.1 hv
  have hdecode : decode (encode (.setup (some k) pin sec)) = .ok (.setup (some k) pin sec) :=
    decode_encode ⟨hk.le, .inr hk⟩
  have hs := (h.presents.step_exec hdecode).trans (exec_setup_valid h.idle hv)
  have hpin : (pinPadded pin).toList.take k.toNat = pin := hk ▸ pinPadded_take pin (hk ▸ h8)
  exact ⟨_, hs, h.accepted hs, rfl, hpin, rfl⟩

/-- Settles O51: the ACCEPT step, the transactions before the loop, the loop, and the WRITE and the final key. -/
theorem setupRunsToOk : Obligations.SetupRunsToOk := by
  intro s k pin sec fs is h hv
  have hanswers : 4 * s.cfg.rounds + 6 = 2 + 4 * s.cfg.rounds + 3 + 1 := by omega
  have hsteps : 4 * s.cfg.rounds + 7 = 4 + (4 * s.cfg.rounds + 2) + 1 := by omega
  rw [hanswers] at h
  obtain ⟨t₀, hs₀, h₀, hp₀, hpin, hsec⟩ := h.setup_accepted hv
  obtain ⟨t₁, hs₁, h₁, hp₁, hl₁⟩ := h₀.setup_prologue hp₀ hpin hsec
  obtain ⟨t₂, hs₂, h₂, hp₂, hl₂⟩ := h₁.setup_loop (Nat.zero_add _) hp₁ hl₁
  obtain ⟨t, hs, hblk, hstore, hslots, ht⟩ := h₂.setup_end hp₂ hl₂
  have hrun : runSteps (4 * s.cfg.rounds + 7) s = .next t :=
    hsteps ▸ runSteps_succ hs₀ ((runSteps_add _ _ hs₁).trans ((runSteps_add _ _ hs₂).trans hs))
  exact ⟨t, hrun, hblk, hstore, (runSteps_frame h.inv hrun).2, hslots, ht.cfg, ht.host, ht.answers, ht.unrefused⟩

/-- Settles O56: what SETUP's run leaves depends on CFG, the secret and the PIN alone. -/
theorem setupForgetsThePast : Obligations.SetupForgetsThePast := by
  intro s s' k pin sec fs fs' is is' hcfg h h' hv
  obtain ⟨t, hrun, hblk, hstore, -, hslots, -⟩ := setupRunsToOk s k pin sec fs is h hv
  rw [hcfg] at h' hrun hblk hstore hslots ⊢
  obtain ⟨t', hrun', hblk', hstore', -, hslots', -⟩ := setupRunsToOk s' k pin sec fs' is' h' hv
  exact ⟨t, t', hrun, hrun', hstore.trans hstore'.symm, hslots.trans hslots'.symm, hblk.trans hblk'.symm,
    congrArg (fun b : Block => b.rsp.status) hblk⟩

end Sys2Proof.Machine
end

section
/-! PROOFS. The record codec and the datapath: DECODE undoes ENCODE, the mask comes off, and the tag test is
equality. -/

namespace Sys2Proof.Machine

/-- A fold of `&&` over a list is the test of all its elements. -/
theorem foldl_and {α : Type} (p : α → Bool) (l : List α) (acc : Bool) :
    l.foldl (fun acc j => p j && acc) acc = (l.all p && acc) := by
  induction l generalizing acc with
  | nil => rfl
  | cons j l ih => rw [List.foldl_cons, ih, List.all_cons, Bool.and_left_comm, Bool.and_assoc]

/-- `EQ32` tests the 32 lanes (R271). -/
theorem eq32_iff_lanes {a b : Bytes32} : eq32 a b = true ↔ ∀ j (h : j < 32), a[j] = b[j] := by
  rw [eq32, foldl_and (fun j : Fin 32 => a[j] == b[j]), Bool.and_true, List.all_eq_true]
  exact ⟨fun h j hj => eq_of_beq (h ⟨j, hj⟩ (List.mem_finRange _)), fun h j _ => beq_iff_eq.2 (h j j.isLt)⟩

/-- `EQ32` is equality (R271). -/
theorem eq32_iff {a b : Bytes32} : eq32 a b = true ↔ a = b :=
  eq32_iff_lanes.trans ⟨fun h => Vector.ext h, fun h _ _ => h ▸ rfl⟩

/-- Masking twice with the same key gives the value back (R270). -/
theorem xor32_cancel (a k : Bytes32) : xor32 (xor32 a k) k = a := by
  apply Vector.ext
  intro j hj
  rw [xor32_getElem, xor32_getElem, BitVec.xor_assoc, BitVec.xor_self, BitVec.xor_zero]

/-- The fields cut from the bytes of a list of 32-byte values are these values (R232). -/
theorem blocksFrom_flatMap (l : List Bytes32) (tail : List Byte) :
    blocksFrom l.length (l.flatMap Vector.toList ++ tail) = l := by
  induction l with
  | nil => rfl
  | cons x l ih =>
    rw [List.length_cons, List.flatMap_cons, List.append_assoc, blocksFrom, bytes32_append,
      List.drop_left' Vector.length_toList, ih]

/-- DECODE gives back a record whose counter is in range (R235). -/
theorem decodeRecord_encodeRecord {rounds : Nat} {r : Record} (h : r.Fits rounds) :
    decodeRecord rounds (encodeRecord r) = .ok r := by
  obtain ⟨rfl, hcnt⟩ := h
  have hhead : (encodeRecord r).getD 0 0 = r.cnt := rfl
  have hblocks : blocksFrom r.enc.length ((encodeRecord r).drop 1) = r.enc := blocksFrom_flatMap r.enc _
  have htag : (encodeRecord r).drop (1 + 32 * r.enc.length) = r.tag.toList := by
    rw [Nat.add_comm]
    exact List.drop_left' (flatMap_toList_length r.enc)
  rw [decodeRecord, if_neg (not_not.2 (encodeRecord_length r)), hhead, if_neg (not_lt.2 hcnt), hblocks, htag,
    bytes32_toList]

/-- A READ of `RECSIZE` bytes gets the whole of an encoded record (R11, R267). -/
theorem take_encodeRecord {cfg : Cfg} {r : Record} (h : r.Fits cfg.rounds) :
    (encodeRecord r).take cfg.recSize = encodeRecord r := by
  apply List.take_of_length_le
  rw [encodeRecord_length, h.encCount, Cfg.recSize]

end Sys2Proof.Machine
end

section
/-! PROOFS. VERIFY's ACCEPT step and its RESPONSE steps, phase by phase. -/

namespace Sys2Proof.Machine

variable {s : State} {is : List Input} {cfg : Cfg} {b : Block} {l : List Byte} {rec : Record}

/-! ## The ACCEPT step and the READ -/

/-- Settles O10: a valid frame's operands are loaded, and step 1's READ is requested. -/
theorem verifyAccepted : Obligations.VerifyAccepted := fun _ _ _ hp hv => exec_verify_valid hp hv

/-- The step in which the READ of a unit that holds data is answered with its first bytes (R74). -/
theorem State.Awaits.step_read (h : s.Awaits .ok is) (hp : s.blk.phase = .vRead) (hl : s.store = .data l) :
    step s = .next { s with inputs := is, blk := verifyAfterRead s.cfg s.blk (l.take s.cfg.recSize) } :=
  h.step_answered (h.inv.block.waitsIn hp) (envAnswer_read_data hl _) (resume_vRead hp)

/-- A record whose counter is 0 ends VERIFY (R184). -/
theorem verifyAfterRead_lockedOut (hd : decodeRecord cfg.rounds l = .ok rec) (h0 : rec.cnt = 0) :
    verifyAfterRead cfg b l = (b.setRegs (b.regs.setRecord rec)).raise .authFailure := by
  unfold verifyAfterRead
  rw [hd]
  exact if_pos ((lockedOut_iff rec).2 h0)

/-- Any other record is decremented, and step 3's ERASE is requested (R185). -/
theorem verifyAfterRead_dec (hd : decodeRecord cfg.rounds l = .ok rec) (h0 : rec.cnt ≠ 0) :
    verifyAfterRead cfg b l = (b.setRegs (b.regs.setRecord rec.dec)).memErase cfg .vEraseDec := by
  unfold verifyAfterRead
  rw [hd]
  exact if_neg (mt (lockedOut_iff rec).1 h0)

/-- A running command that an error ends, whatever registers its last line wrote (R303). -/
theorem State.Awaits.raise_setRegs {a : Answer} (h : s.Awaits a is) {r : Regs}
    (hr : r.record.enc.length = s.cfg.rounds) (x : CmdError) :
    (s.blk.setRegs r).raise x = Block.completed s.cfg .none x.status zero32 := by
  rw [Block.raise_eq (b := s.blk.setRegs r) hr, Block.setRegs_faultCode, h.noFault]

/-- Settles O31: the READ answers the record, and the lockout test ends the command. -/
theorem lockoutFailsAtOnce : Obligations.LockoutFailsAtOnce := by
  intro s is l rec h hp hl hd h0
  rw [h.step_read hp hl, verifyAfterRead_lockedOut hd h0,
    h.raise_setRegs (r := s.blk.regs.setRecord rec) (decodeRecord_enc_length hd)]
  rfl

/-- Settles O32: the READ of an erased unit fails. -/
theorem unreadableRecordIsStorageError : Obligations.UnreadableRecordIsStorageError := by
  intro s is h hp hl
  have hb : resume s.cfg s.blk .readFail = .ok (s.blk.raise .storageError) := resume_vRead hp
  rw [Block.raise_eq h.inv.block.encCount, h.noFault] at hb
  exact h.step_answered (h.inv.block.waitsIn hp) (envAnswer_read_erased hl _) hb

/-- Settles O38: the READ answers the record, and a counter that is not 0 is decremented without wrapping. -/
theorem attemptDecrementedFirst : Obligations.AttemptDecrementedFirst := by
  intro s is l rec h hp hl hd h0
  have hs := h.step_read hp hl
  rw [verifyAfterRead_dec hd h0] at hs
  refine ⟨_, hs, rfl, rfl, rfl, ?_⟩
  have hdec := toNat_dec h0
  have hpos : rec.cnt.toNat ≠ 0 := fun hz => h0 (BitVec.eq_of_toNat_eq hz)
  omega

/-! ## The candidate and the tag test -/

/-- The block at the decremented counter is there, so VERIFY decrypts it (R188). -/
theorem verifyAfterMacK_some {e : Bytes32} (he : b.regs.record.enc[b.regs.record.cnt.toNat]? = some e) (k : Bytes32) :
    verifyAfterMacK b k = .ok ((b.setRegs ((b.regs.setK k).setS (xor32 e k))).macReq .vMacT (xor32 e k) labelTag) := by
  unfold verifyAfterMacK
  rw [he]

/-- Settles O39: the decremented counter names a slot of the bank and a block of the record. -/
theorem verifyUsesDecrementedSlot : Obligations.VerifyUsesDecrementedSlot := by
  intro s is h
  refine ⟨fun hp => ?_, fun hp => ?_⟩
  · have ho : s.blk.outstanding = some (.slot s.blk.regs.record.cnt s.blk.regs.v) := h.inv.block.waitsIn hp
    obtain ⟨st, hst⟩ := h.inv.slot_exists ho
    exact ⟨ho, h.inv.block.countersIn hp, _, st, hst, h.step_slot ho hst (resume_vSlot hp), rfl, rfl, rfl⟩
  · have ho : s.blk.outstanding = some (.mac s.blk.regs.w s.blk.regs.pinMsg) := h.inv.block.waitsIn hp
    have hcnt : s.blk.regs.record.cnt.toNat < s.cfg.rounds := h.inv.block.countersIn hp
    have he := List.getElem?_eq_getElem (hcnt.trans_eq h.inv.block.encCount.symm)
    exact ⟨ho, _, _, _, rfl, he, h.step_mac ho ((resume_vMacK hp).trans (verifyAfterMacK_some he _)), rfl, rfl, rfl⟩

theorem verifyAfterMacT_match {t : Bytes32} (ht : t = b.regs.record.tag) :
    verifyAfterMacT b t = (b.setRegs (b.regs.setT t)).macReq .vMacU b.regs.s labelRekey :=
  if_pos (eq32_iff.2 ht)

theorem verifyAfterMacT_mismatch {t : Bytes32} (ht : t ≠ b.regs.record.tag) :
    verifyAfterMacT b t = (b.setRegs (b.regs.setT t)).raise .authFailure :=
  if_neg (mt eq32_iff.1 ht)

/-- Settles O34: the tag test ends the command, and its MAC leaves ENV as durability and the account of the slots have
it. -/
theorem tagMismatchFails : Obligations.TagMismatchFails := by
  intro s is h hd hs hp ht
  have hdone : verifyAfterMacT s.blk (Config.mac s.blk.regs.s labelTag) =
      Block.completed s.cfg .none .authFailure zero32 :=
    (verifyAfterMacT_mismatch ht).trans (h.raise_setRegs h.inv.block.encCount _)
  have hs' := h.step_mac (h.inv.block.waitsIn hp) ((resume_vMacT hp).trans (congrArg _ hdone))
  exact ⟨_, hs', rfl, rfl, hd.stored (by rw [hp]; rfl), hs.inPhase hp⟩

/-! ## The re-commit sequencer -/

/-- The phase that the re-commit loop's test leads to with the index at `i` (R192). -/
def recommitPhase (rounds i : Nat) : Phase := if i + 2 ≤ rounds then .vRecommit else .vEraseRst

theorem recommitLoop_phase (cfg : Cfg) (b : Block) :
    (recommitLoop cfg b).phase = recommitPhase cfg.rounds b.regs.idx.toNat := by
  unfold recommitPhase
  split
  · rw [recommitLoop_more ‹_›]
    rfl
  · rw [recommitLoop_done ‹_›]
    rfl

/-- The re-commit loop's test changes no register of `Regs` but the counter, which it resets where the loop ends (R192,
R193). -/
theorem recommitLoop_regs (cfg : Cfg) (b : Block) :
    (recommitLoop cfg b).regs = if b.regs.idx.toNat + 2 ≤ cfg.rounds then b.regs
      else b.regs.setRecord (b.regs.record.load cfg.rounds) := by
  split
  · rw [recommitLoop_more ‹_›]
    rfl
  · rw [recommitLoop_done ‹_›]
    rfl

/-- The step in which the re-commit sequencer's slot answers (R192). -/
theorem State.Awaits.step_recommit (h : s.Awaits .ok is) (hp : s.blk.phase = .vRecommit) :
    step s = .next { s with
      inputs := is, env := { s.env with slots := s.env.slots.set s.blk.regs.idx.toNat (.keyed s.blk.regs.u) },
      blk := verifyAfterRecommit s.cfg s.blk } := by
  have ho : s.blk.outstanding = some (.slot s.blk.regs.idx s.blk.regs.u) := h.inv.block.waitsIn hp
  obtain ⟨st, hst⟩ := h.inv.slot_exists ho
  exact h.step_slot ho hst (resume_vRecommit hp)

/-- The re-commit sequencer's index moves up by one (R192). -/
theorem State.Awaits.recommit_next_idx (h : s.Awaits .ok is) (hp : s.blk.phase = .vRecommit) :
    (s.blk.regs.idx + 1).toNat = s.blk.regs.idx.toNat + 1 := by
  obtain ⟨-, hidx⟩ := h.inv.block.countersIn hp
  have hrounds : s.cfg.rounds ≤ 128 := h.inv.legal.2.1
  exact toNat_succ (by omega)

/-- Settles O40: the slot at `IDX` is keyed, and the loop's test at `IDX` + 1 goes on or resets the counter. -/
theorem recommitOneSlot : Obligations.RecommitOneSlot := by
  intro s is h hp
  obtain ⟨hcnt, hidx⟩ := h.inv.block.countersIn hp
  have hnext := h.recommit_next_idx hp
  refine ⟨h.inv.block.waitsIn hp, hcnt, hidx, _, h.step_recommit hp, rfl, ?_⟩
  have hphase := recommitLoop_phase s.cfg (s.blk.setRegs (s.blk.regs.setIdx (s.blk.regs.idx + 1)))
  have hregs := recommitLoop_regs s.cfg (s.blk.setRegs (s.blk.regs.setIdx (s.blk.regs.idx + 1)))
  simp only [recommitPhase, Block.setRegs_regs, Regs.setIdx_idx, hnext] at hphase hregs
  simp only [verifyAfterRecommit, hphase, hregs]
  split
  · exact ⟨hnext, rfl, rfl⟩
  · exact ⟨hnext, rfl, toNat_rounds h.inv.legal.2.1, rfl, rfl⟩

end Sys2Proof.Machine
end

section
/-! PROOFS. VERIFY's runs with every answer `Ok`: the lockout, and the transactions up to the tag test. -/

namespace Sys2Proof.Machine

variable {s t : State} {cfg : Cfg} {fs : List Frame} {n : Nat} {is : List Input} {pin l : List Byte} {b : Block}
  {k : Byte} {rec : Record} {j : Nat} {st : SlotState} {e : Bytes32}

/-! ## What runs keep -/

/-- What every step keeps in a system that meets the invariant, every run keeps. -/
theorem runSteps_keeps {P : State → Prop} (hP : ∀ s t : State, s.Inv → P s → step s = .next t → P t) {n : Nat}
    (hi : s.Inv) (hs : P s) (h : runSteps n s = .next t) : t.Inv ∧ P t := by
  induction n generalizing s with
  | zero =>
    cases h
    exact ⟨hi, hs⟩
  | succ n ih =>
    obtain ⟨u, hu, h⟩ := runSteps_succ_next h
    exact ih (everyStepKeepsInv s u hi hu) (hP s u hi hs hu) h

theorem runSteps_durable {n : Nat} (hi : s.Inv) (hd : s.Durable) (h : runSteps n s = .next t) : t.Durable :=
  (runSteps_keeps everyStepKeepsDurable hi hd h).2

theorem runSteps_inv {n : Nat} (hi : s.Inv) (h : runSteps n s = .next t) : t.Inv :=
  (runSteps_keeps (P := fun _ => True) (fun _ _ _ _ _ => trivial) hi trivial h).1

/-- In IDLE nothing is claimed of the store. -/
theorem State.durable_of_idle (hp : s.blk.phase = .idle) : s.Durable := by
  unfold State.Durable
  rw [hp]
  trivial

/-- A step from a phase that waits on no slot leaves the slots. -/
theorem State.Inv.slots_kept (hi : s.Inv) {p : Phase} (hp : s.blk.phase = p)
    (hq : ∀ i x, phaseRequest s.cfg s.blk.regs p ≠ some (.slot i x)) (hs : step s = .next t) :
    t.env.slots = s.env.slots :=
  (systemStep_moves hs).2.touched.slots_eq fun i x => hi.block.waitsIn hp ▸ hq i x

/-- An ERASE transaction of a run, where the unit holds data (R75). -/
theorem State.RunsOk.erase (h : s.RunsOk cfg fs (n + 1) is) {p : Phase} (hp : s.blk.phase = p)
    (hq : phaseRequest s.cfg s.blk.regs p = some (.erase s.cfg.recordAddr)) (hl : s.store = .data l)
    (hb : resume s.cfg s.blk .eraseOk = .ok b) : ∃ t, step s = .next t ∧ t.RunsOk cfg fs n is ∧ t.blk = b := by
  have ho : s.blk.outstanding = some (.erase s.cfg.recordAddr) := (h.inv.block.waitsIn hp).trans hq
  have hr : p.running = true := hp ▸ h.inv.block.running_of_outstanding ho
  have hs := (h.awaits hp hr).step_answered ho (envAnswer_erase_data hl) hb
  exact ⟨_, hs, h.answered hp hr hs, rfl⟩

/-! ## VERIFY's ACCEPT step, and the lockout -/

/-- VERIFY's ACCEPT step loads the PIN and waits on the READ (R181). -/
theorem State.StartsAllOk.verify_accepted (h : s.StartsAllOk (encode (.verify (some k) pin [])) fs (n + 1) is)
    (hv : validVerify (some k) pin [] = true) :
    ∃ b, step s = .next ((s.passQuiet.setHost fs).setBlk b) ∧ b.phase = .vRead ∧ b.regs.pinMsg = pin := by
  obtain ⟨-, h8, hk, -⟩ := validVerify_iff.1 hv
  have hdecode : decode (encode (.verify (some k) pin [])) = .ok (.verify (some k) pin []) :=
    decode_encode ⟨hk.le, .inr hk⟩
  have hpin : (pinPadded pin).toList.take k.toNat = pin := hk ▸ pinPadded_take pin (hk ▸ h8)
  exact ⟨_, (h.presents.step_exec hdecode).trans (exec_verify_valid h.idle hv), rfl, hpin⟩

/-- Settles O54: the ACCEPT step, and the READ of a record whose counter is 0. -/
theorem verifyLockoutRun : Obligations.VerifyLockoutRun := by
  intro s k pin fs is l rec h hv hl hd h0
  obtain ⟨b, hs, hp, -⟩ := h.verify_accepted hv
  have hs' := lockoutFailsAtOnce _ is l rec ((h.accepted hs).awaits hp rfl) hp hl hd h0
  exact runSteps_succ hs (runSteps_succ hs' rfl)

/-! ## From the ACCEPT step to the tag test -/

/-- An attempt that VERIFY can make: the store holds a record whose counter is `j` + 1, slot `j` is in state `st`, and
block `j` of the record is `e` (R187, R188). -/
structure State.Attempt (s : State) (rec : Record) (j : Nat) (st : SlotState) (e : Bytes32) : Prop where
  stored : ∃ l, s.store = .data l ∧ decodeRecord s.cfg.rounds (l.take s.cfg.recSize) = .ok rec
  counter : j + 1 = rec.cnt.toNat
  slot : s.env.slots[j]? = some st
  block : rec.enc[j]? = some e

theorem State.Attempt.cnt_ne_zero (h : s.Attempt rec j st e) : rec.cnt ≠ 0 := by
  intro h0
  have hcounter := h.counter
  rw [h0] at hcounter
  cases hcounter

/-- The decremented counter is `j` (R185). -/
theorem State.Attempt.dec_toNat (h : s.Attempt rec j st e) : rec.dec.cnt.toNat = j := by
  have hdec : rec.dec.cnt.toNat = rec.cnt.toNat - 1 := toNat_dec h.cnt_ne_zero
  rw [hdec, ← h.counter, Nat.add_sub_cancel]

/-- The candidate for the secret that VERIFY computes from the block `e`, the state `st` of the slot and a PIN (R186 to
R188). -/
def candidate (rec : Record) (st : SlotState) (e : Bytes32) (pin : List Byte) : Bytes32 :=
  xor32 e (Config.mac (Config.slotOut (rec.cnt - 1) st (Config.mac zero32 pin)) pin)

/-- VERIFY waits on its tag: `S` is the candidate `x`, `REC` the decremented record, and slot `j` of the slots `before`
the command is keyed by the PIN's tag (R185 to R188). -/
structure State.AtTagTest (rec : Record) (j : Nat) (x : Bytes32) (pin : List Byte) (before : List SlotState)
    (t : State) : Prop where
  phase : t.blk.phase = .vMacT
  secret : t.blk.regs.s = x
  record : t.blk.regs.record = rec.dec
  slots : t.env.slots = before.set j (.keyed (Config.mac zero32 pin))

/-- The READ, and the ERASE and the WRITE of the decremented record (R183 to R185). -/
theorem State.RunsOk.verify_decrement (h : s.RunsOk cfg fs (n + 3) is) (hp : s.blk.phase = .vRead)
    (ha : s.Attempt rec j st e) :
    ∃ t, runSteps 3 s = .next t ∧ t.RunsOk cfg fs n is ∧ t.blk.phase = .vMacV ∧
      t.blk.regs = s.blk.regs.setRecord rec.dec ∧ t.env.slots = s.env.slots := by
  obtain ⟨l, hl, hd⟩ := ha.stored
  obtain ⟨t₁, hs₁, hp₁, henv₁, hr₁, -⟩ := attemptDecrementedFirst s _ l rec (h.awaits hp rfl) hp hl hd ha.cnt_ne_zero
  have h₁ := h.answered hp rfl hs₁
  have hl₁ : t₁.store = .data l := by rw [State.store, henv₁, h₁.cfg, ← h.cfg, ← hl, State.store]
  obtain ⟨t₂, hs₂, h₂, hb₂⟩ := h₁.erase hp₁ rfl hl₁ (resume_vEraseDec hp₁)
  have hp₂ : t₂.blk.phase = .vWriteDec := congrArg Block.phase hb₂
  have hr₂ : t₂.blk.regs = t₁.blk.regs := (congrArg Block.regs hb₂ :)
  obtain ⟨t₃, hs₃, -, hslots₃, hr₃, -, hp₃, -⟩ := writePersistsRecord t₂ _ (h₂.awaits hp₂ rfl) (.inr (.inl hp₂))
  have hslots : t₃.env.slots = s.env.slots :=
    hslots₃.trans ((h₁.inv.slots_kept hp₁ nofun hs₂).trans (congrArg Env.slots henv₁))
  exact ⟨t₃, runSteps_succ hs₁ (runSteps_succ hs₂ (runSteps_succ hs₃ rfl)), h₂.answered hp₂ rfl hs₃, hp₃ hp₂,
    hr₃.trans (hr₂.trans hr₁), hslots⟩

/-- The PIN's tag, and the slot at the decremented counter: its output goes to `W`, and it is keyed by the tag (R186,
R187). -/
theorem State.RunsOk.verify_consume (h : s.RunsOk cfg fs (n + 2) is) (hp : s.blk.phase = .vMacV)
    (hpin : s.blk.regs.pinMsg = pin) (hrec : s.blk.regs.record = rec.dec) (hj : rec.dec.cnt.toNat = j)
    (hst : s.env.slots[j]? = some st) :
    ∃ t, runSteps 2 s = .next t ∧ t.RunsOk cfg fs n is ∧ t.blk.phase = .vMacK ∧ t.blk.regs.pinMsg = pin ∧
      t.blk.regs.record = rec.dec ∧ t.blk.regs.w = Config.slotOut (rec.cnt - 1) st (Config.mac zero32 pin) ∧
      t.env.slots = s.env.slots.set j (.keyed (Config.mac zero32 pin)) := by
  obtain ⟨t₁, hs₁, h₁, hb₁⟩ := h.mac hp rfl (resume_vMacV hp)
  have hp₁ : t₁.blk.phase = .vSlot := congrArg Block.phase hb₁
  have hr₁ : t₁.blk.regs = s.blk.regs.setV (Config.mac zero32 s.blk.regs.pinMsg) := congrArg Block.regs hb₁
  have hrec₁ : t₁.blk.regs.record = rec.dec := (congrArg Regs.record hr₁).trans hrec
  have hpin₁ : t₁.blk.regs.pinMsg = pin := (congrArg Regs.pinMsg hr₁).trans hpin
  have hv₁ : t₁.blk.regs.v = Config.mac zero32 pin := hpin ▸ congrArg Regs.v hr₁
  have hslots₁ : t₁.env.slots = s.env.slots := h.inv.slots_kept hp nofun hs₁
  obtain ⟨hslot, -⟩ := verifyUsesDecrementedSlot t₁ _ (h₁.awaits hp₁ rfl)
  obtain ⟨-, -, t₂, st', hst', hs₂, hp₂, hr₂, henv₂⟩ := hslot hp₁
  rw [hrec₁, hslots₁, hj, hst] at hst'
  rw [hrec₁, hv₁] at hr₂ henv₂
  obtain rfl := Option.some.inj hst'
  exact ⟨t₂, runSteps_succ hs₁ (runSteps_succ hs₂ rfl), h₁.answered hp₁ rfl hs₂, hp₂,
    (congrArg Regs.pinMsg hr₂).trans hpin₁, (congrArg Regs.record hr₂).trans hrec₁, congrArg Regs.w hr₂,
    by rw [henv₂, hslots₁, hj]⟩

/-- The round key, and with it the candidate (R188). -/
theorem State.RunsOk.verify_unmask (h : s.RunsOk cfg fs (n + 1) is) (hp : s.blk.phase = .vMacK)
    (hpin : s.blk.regs.pinMsg = pin) (hrec : s.blk.regs.record = rec.dec) (hj : rec.dec.cnt.toNat = j)
    (hw : s.blk.regs.w = Config.slotOut (rec.cnt - 1) st (Config.mac zero32 pin)) (he : rec.enc[j]? = some e) :
    ∃ t, step s = .next t ∧ t.RunsOk cfg fs n is ∧ t.blk.phase = .vMacT ∧ t.blk.regs.record = rec.dec ∧
      t.blk.regs.s = candidate rec st e pin ∧ t.env = s.env := by
  obtain ⟨-, hblock⟩ := verifyUsesDecrementedSlot s _ (h.awaits hp rfl)
  obtain ⟨-, t, key, e', hkey, he', hs, hp', hr, henv⟩ := hblock hp
  rw [hrec, hj, Record.dec_enc, he] at he'
  obtain rfl := Option.some.inj he'
  have hkey : key = Config.mac s.blk.regs.w s.blk.regs.pinMsg := hkey
  rw [hw, hpin] at hkey
  exact ⟨t, hs, h.answered hp rfl hs, hp', (congrArg Regs.record hr).trans hrec,
    (congrArg Regs.s hr).trans (congrArg (xor32 e) hkey), henv⟩

/-- VERIFY's run from its ACCEPT step to its tag test (R181 to R188). -/
theorem State.StartsAllOk.verify_attempt (h : s.StartsAllOk (encode (.verify (some k) pin [])) fs (n + 6) is)
    (hv : validVerify (some k) pin [] = true) (ha : s.Attempt rec j st e) :
    ∃ t, runSteps 7 s = .next t ∧ t.RunsOk s.cfg fs n is ∧ t.Durable ∧
      t.AtTagTest rec j (candidate rec st e pin) pin s.env.slots := by
  obtain ⟨b, hs₀, hp₀, hpin₀⟩ := h.verify_accepted hv
  have h₀ := h.accepted hs₀
  obtain ⟨t₁, hrun₁, h₁, hp₁, hr₁, hslots₁⟩ :=
    State.RunsOk.verify_decrement (n := n + 3) h₀ hp₀ ⟨ha.stored, ha.counter, ha.slot, ha.block⟩
  have hpin₁ : t₁.blk.regs.pinMsg = pin := (congrArg Regs.pinMsg hr₁).trans hpin₀
  have hrec₁ : t₁.blk.regs.record = rec.dec := congrArg Regs.record hr₁
  have hj := ha.dec_toNat
  obtain ⟨t₂, hrun₂, h₂, hp₂, hpin₂, hrec₂, hw₂, hslots₂⟩ :=
    State.RunsOk.verify_consume (n := n + 1) h₁ hp₁ hpin₁ hrec₁ hj (hslots₁ ▸ ha.slot)
  obtain ⟨t, hs, ht, hp, hrec, hsec, henv⟩ := h₂.verify_unmask hp₂ hpin₂ hrec₂ hj hw₂ ha.block
  have hrun : runSteps 7 s = .next t :=
    runSteps_succ hs₀ ((runSteps_add 3 3 hrun₁).trans ((runSteps_add 2 1 hrun₂).trans (runSteps_succ hs rfl)))
  have hslots := (congrArg Env.slots henv).trans hslots₂
  exact ⟨t, hrun, ht, runSteps_durable h.inv (State.durable_of_idle h.idle) hrun, hp, hsec, hrec, hslots₁ ▸ hslots⟩

/-- Settles O52: the run to the tag test, and the mismatch. -/
theorem verifyMismatchRun : Obligations.VerifyMismatchRun := by
  intro s k pin fs is l rec st e h hv hl hd h0 hst he hne
  have hpos : rec.cnt.toNat ≠ 0 := fun hz => h0 (BitVec.eq_of_toNat_eq hz)
  have ha : s.Attempt rec (rec.cnt.toNat - 1) st e :=
    ⟨⟨l, hl, hd⟩, Nat.sub_add_cancel (Nat.pos_of_ne_zero hpos), hst, he⟩
  obtain ⟨t, hrun, ht, hdur, htest⟩ := State.StartsAllOk.verify_attempt (n := 1) h hv ha
  have hne : Config.mac t.blk.regs.s [0x00] ≠ t.blk.regs.record.tag := by
    rw [htest.secret, htest.record]
    exact hne
  obtain ⟨u, hs, hblk, henv, hstore, -⟩ :=
    tagMismatchFails t _ (ht.awaits htest.phase rfl) hdur ht.tracked htest.phase hne
  have hu := ht.answered htest.phase rfl hs
  have hrun : runSteps 8 s = .next u := (runSteps_add 7 1 hrun).trans (runSteps_succ hs rfl)
  exact ⟨u, hrun, ht.cfg ▸ hblk, hstore.trans (by rw [htest.record]; rfl), (runSteps_frame h.inv hrun).2,
    (congrArg Env.slots henv).trans htest.slots, hu.cfg, hu.host, hu.answers, hu.unrefused⟩

end Sys2Proof.Machine
end

section
/-! PROOFS. VERIFY's run with the right candidate: the re-commit sequencer, the counter's reset and the final key. -/

namespace Sys2Proof.Machine

variable {s t : State} {cfg : Cfg} {fs : List Frame} {n : Nat} {is : List Input} {pin sec : List Byte} {b : Block}
  {rec : Record} {x : Bytes32} {i : Nat}

/-! ## The re-commit sequencer -/

/-- The registers of VERIFY in its re-commit loop, with the index at `i`: the recovered secret `x`, its re-commit value,
and the record read but for its counter (R191 to R193). -/
structure Regs.RecommitLoop (rec : Record) (x : Bytes32) (i : Nat) (r : Regs) : Prop where
  secret : r.s = x
  slotInput : r.u = Config.mac x [0x01]
  index : r.idx.toNat = i
  blocks : r.record.enc = rec.enc
  tag : r.record.tag = rec.tag

/-- The loop's test keeps them: it changes no more than the counter. -/
theorem Regs.RecommitLoop.of_test (h : b.regs.RecommitLoop rec x i) (cfg : Cfg) :
    (recommitLoop cfg b).regs.RecommitLoop rec x i := by
  rw [recommitLoop_regs]
  split
  · exact h
  · exact { h with }

/-- One operation of the sequencer (R192). -/
theorem State.RunsOk.verify_recommit_one (h : s.RunsOk cfg fs (n + 1) is) (hp : s.blk.phase = .vRecommit)
    (hl : s.blk.regs.RecommitLoop rec x i) :
    ∃ t, step s = .next t ∧ t.RunsOk cfg fs n is ∧ t.blk.phase = recommitPhase cfg.rounds (i + 1) ∧
      t.blk.regs.RecommitLoop rec x (i + 1) ∧ t.env.slots = s.env.slots.set i (.keyed (Config.mac x [0x01])) := by
  have ha := h.awaits hp rfl
  have hs := ha.step_recommit hp
  have hidx : (s.blk.regs.idx + 1).toNat = i + 1 := (ha.recommit_next_idx hp).trans (congrArg (· + 1) hl.index)
  refine ⟨_, hs, h.answered hp rfl hs, ?_, ?_, ?_⟩
  · rw [← hidx, ← h.cfg]
    exact recommitLoop_phase _ _
  · exact Regs.RecommitLoop.of_test (b := s.blk.setRegs (s.blk.regs.setIdx (s.blk.regs.idx + 1)))
      { hl with index := hidx } _
  · rw [← hl.index, ← hl.slotInput]

/-- The sequencer from index `i` to its end: it keys the slots from `i` to `ROUNDS`-2 with `U` (R192). -/
theorem State.RunsOk.verify_recommit {k : Nat} (hk : i + k + 1 = cfg.rounds) (h : s.RunsOk cfg fs (n + k) is)
    (hp : s.blk.phase = recommitPhase cfg.rounds i) (hl : s.blk.regs.RecommitLoop rec x i) :
    ∃ t, runSteps k s = .next t ∧ t.RunsOk cfg fs n is ∧ t.blk.phase = .vEraseRst ∧
      t.blk.regs.RecommitLoop rec x (i + k) ∧
      ∀ j, t.env.slots[j]? =
        if i ≤ j ∧ j + 2 ≤ cfg.rounds then some (.keyed (Config.mac x [0x01])) else s.env.slots[j]? := by
  induction k generalizing s i with
  | zero =>
    refine ⟨s, rfl, h, hp.trans (if_neg (by omega)), hl, fun j => (if_neg (by omega)).symm⟩
  | succ k ih =>
    have hi : i < s.env.slots.length := by rw [h.inv.slotCount, h.cfg]; omega
    obtain ⟨t, hs, h', hp', hl', hslots⟩ :=
      State.RunsOk.verify_recommit_one (n := n + k) h (hp.trans (if_pos (by omega))) hl
    obtain ⟨u, hu, hrun, hpu, hlu, hkeyed⟩ := ih (by omega) h' hp' hl'
    refine ⟨u, runSteps_succ hs hu, hrun, hpu, Nat.add_right_comm i k 1 ▸ hlu, fun j => ?_⟩
    rw [hkeyed, hslots]
    obtain rfl | hj := eq_or_ne i j
    · rw [if_neg (by omega), if_pos (by omega), List.getElem?_set_self hi]
    · rw [List.getElem?_set_ne hj]
      exact if_congr (by omega) rfl rfl

/-! ## From the tag test to the loop, and from the loop to the end -/

/-- A candidate with the record's tag: the two MACs that lead to the loop at the decremented counter (R189 to R192). -/
theorem State.RunsOk.verify_match {j : Nat} {slots : List SlotState} (h : s.RunsOk cfg fs (n + 2) is)
    (ht : s.AtTagTest rec j x pin slots) (hj : rec.dec.cnt.toNat = j) (htag : Config.mac x [0x00] = rec.tag) :
    ∃ t, runSteps 2 s = .next t ∧ t.RunsOk cfg fs n is ∧ t.blk.phase = recommitPhase cfg.rounds j ∧
      t.blk.regs.RecommitLoop rec x j ∧ t.env.slots = s.env.slots := by
  have hmatch : Config.mac s.blk.regs.s labelTag = s.blk.regs.record.tag := by
    rw [ht.secret, ht.record]
    exact htag
  obtain ⟨t₁, hs₁, h₁, hb₁⟩ :=
    h.mac ht.phase rfl ((resume_vMacT ht.phase).trans (congrArg _ (verifyAfterMacT_match hmatch)))
  have hp₁ : t₁.blk.phase = .vMacU := congrArg Block.phase hb₁
  have hr₁ : t₁.blk.regs = s.blk.regs.setT (Config.mac s.blk.regs.s labelTag) := congrArg Block.regs hb₁
  obtain ⟨t₂, hs₂, h₂, hb₂⟩ := h₁.mac hp₁ rfl (resume_vMacU hp₁)
  have hsec₁ : t₁.blk.regs.s = x := (congrArg Regs.s hr₁).trans ht.secret
  have hrec₁ : t₁.blk.regs.record = rec.dec := (congrArg Regs.record hr₁).trans ht.record
  have hcnt₁ : t₁.blk.regs.record.cnt.toNat = j := hrec₁ ▸ hj
  have hl₁ : ((t₁.blk.regs.setU (Config.mac t₁.blk.regs.s labelRekey)).setIdx t₁.blk.regs.record.cnt).RecommitLoop
      rec x j := {
    secret := hsec₁
    slotInput := congrArg (Config.mac · labelRekey) hsec₁
    index := hcnt₁
    blocks := (congrArg Record.enc hrec₁ :)
    tag := (congrArg Record.tag hrec₁ :) }
  refine ⟨t₂, runSteps_succ hs₁ (runSteps_succ hs₂ rfl), h₂, ?_, ?_,
    (h₁.inv.slots_kept hp₁ nofun hs₂).trans (h.inv.slots_kept ht.phase nofun hs₁)⟩
  · rw [hb₂, h₁.cfg, ← hcnt₁]
    exact recommitLoop_phase _ _
  · rw [hb₂]
    exact Regs.RecommitLoop.of_test (b := t₁.blk.setRegs _) hl₁ _

/-- After the loop `REC` is the record read, with its counter reset (R193). -/
theorem Regs.RecommitLoop.record_eq {rounds : Nat} {r : Regs} (h : r.RecommitLoop rec x i)
    (hcnt : r.record.cnt.toNat = rounds) : r.record = rec.load rounds := by
  have hof : r.record.cnt = BitVec.ofNat 8 rounds := by rw [← hcnt, BitVec.ofNat_toNat, BitVec.setWidth_eq]
  rw [Record.load, ← hof, ← h.blocks, ← h.tag]

/-- The ERASE and the WRITE of the record with its counter reset, and the final key (R193, R194). -/
theorem State.RunsOk.verify_end (h : s.RunsOk cfg fs 3 is) (hd : s.Durable) (hp : s.blk.phase = .vEraseRst)
    (hl : s.blk.regs.RecommitLoop rec x i) :
    ∃ t, runSteps 3 s = .next t ∧ t.RunsOk cfg fs 0 is ∧
      t.blk = Block.completed cfg .none .authSuccess (Config.mac x [0x32]) ∧
      t.store = .data (encodeRecord (rec.load cfg.rounds)) ∧ t.env.slots = s.env.slots := by
  obtain ⟨c, -, hstored⟩ : ∃ c : Byte, c.toNat < s.cfg.rounds ∧
      s.store = .data (encodeRecord { s.blk.regs.record with cnt := c }) := by
    unfold State.Durable at hd
    rwa [hp] at hd
  obtain ⟨t₁, hs₁, h₁, hb₁⟩ := h.erase hp rfl hstored (resume_vEraseRst hp)
  have hp₁ : t₁.blk.phase = .vWriteRst := congrArg Block.phase hb₁
  have hr₁ : t₁.blk.regs = s.blk.regs := (congrArg Block.regs hb₁ :)
  obtain ⟨t₂, hs₂, hstore₂, hslots₂, hr₂, -, -, hp₂⟩ := writePersistsRecord t₁ _ (h₁.awaits hp₁ rfl) (.inr (.inr hp₁))
  have hp₂ := hp₂ hp₁
  have h₂ := h₁.answered hp₁ rfl hs₂
  obtain ⟨-, hfinal⟩ := finalKeyCompletes t₂ _ (h₂.awaits hp₂ rfl)
  have hs₃ := hfinal hp₂
  have hcnt : s.blk.regs.record.cnt.toNat = cfg.rounds :=
    (h.inv.block.countersIn hp :).trans (congrArg Cfg.rounds h.cfg)
  refine ⟨_, runSteps_succ hs₁ (runSteps_succ hs₂ (runSteps_succ hs₃ rfl)), h₂.answered hp₂ rfl hs₃, ?_, ?_,
    hslots₂.trans (h.inv.slots_kept hp nofun hs₁)⟩
  · rw [hr₂, hr₁, hl.secret, h₂.cfg]
  · exact hstore₂.trans (by rw [hr₁, hl.record_eq hcnt])

/-! ## The whole run -/

/-- Settles O53: the run to the tag test, the match, the re-commit sequencer, and the end. -/
theorem verifyMatchRun : Obligations.VerifyMatchRun := by
  intro s key pin fs is l rec st e x j hj h hv hl hd hst he hx htag
  have ha : s.Attempt rec j st e := ⟨⟨l, hl, hd⟩, hj, hst, he⟩
  obtain ⟨-, hcnt, -⟩ := decodeRecord_ok hd
  obtain ⟨k, hk⟩ : ∃ k, j + k + 1 = s.cfg.rounds := ⟨s.cfg.rounds - rec.cnt.toNat, by omega⟩
  have hanswers : s.cfg.rounds + 10 - j = 3 + k + 2 + 6 := by omega
  have hsteps : s.cfg.rounds + 11 - j = 7 + (2 + (k + 3)) := by omega
  rw [hanswers] at h
  obtain ⟨t₁, hrun₁, h₁, hd₁, ht₁⟩ := h.verify_attempt hv ha
  rw [show candidate rec st e pin = x from hx.symm] at ht₁
  obtain ⟨t₂, hrun₂, h₂, hp₂, hl₂, hslots₂⟩ := h₁.verify_match ht₁ ha.dec_toNat htag
  obtain ⟨t₃, hrun₃, h₃, hp₃, hl₃, hslots₃⟩ := h₂.verify_recommit hk hp₂ hl₂
  have hd₃ : t₃.Durable := runSteps_durable h₁.inv hd₁ ((runSteps_add 2 k hrun₂).trans hrun₃)
  obtain ⟨t, hrun₄, ht, hblk, hstore, hslots⟩ := h₃.verify_end hd₃ hp₃ hl₃
  have hrun : runSteps (s.cfg.rounds + 11 - j) s = .next t := by
    rw [hsteps, runSteps_add _ _ hrun₁, runSteps_add _ _ hrun₂, runSteps_add _ _ hrun₃, hrun₄]
  refine ⟨t, hrun, hblk, hstore, (runSteps_frame h.inv hrun).2, ht.inv.slotCount.trans (congrArg Cfg.rounds ht.cfg),
    fun i hi => ?_, ht.cfg, ht.host, ht.answers, ht.unrefused⟩
  rw [hslots, hslots₃, hslots₂, ht₁.slots, List.getElem?_set]
  refine if_congr Iff.rfl rfl ?_
  obtain rfl | hij := eq_or_ne i j
  · rw [if_pos rfl, if_pos rfl, if_pos (h.inv.slotCount.symm ▸ hi)]
  · rw [if_neg hij.symm, if_neg hij]

/-! ## The run after SETUP's -/

/-- The same PIN and a slot keyed by `U` unmask SETUP's block: the candidate is SETUP's secret (R200). -/
theorem candidate_setupRecord {rounds j : Nat} (hj : j + 1 = rounds) :
    candidate (setupRecord rounds pin sec) (.keyed (Config.mac (bytes32 sec) [0x01])) (setupBlock pin sec j) pin =
      bytes32 sec := by
  have hcnt : (setupRecord rounds pin sec).cnt - 1 = BitVec.ofNat 8 j := by
    rw [setupRecord, ← hj, BitVec.ofNat_add]
    exact BitVec.add_sub_cancel _ _
  rw [candidate, hcnt, setupBlock, xor32_cancel]

theorem setupRecord_fits {rounds : Nat} (h : rounds ≤ 128) : (setupRecord rounds pin sec).Fits rounds where
  encCount := (List.length_map _).trans List.length_range
  cntRange := (toNat_rounds h).le

theorem setupRecord_block {rounds j : Nat} (hj : j < rounds) :
    (setupRecord rounds pin sec).enc[j]? = some (setupBlock pin sec j) := by
  rw [setupRecord, List.getElem?_map, List.getElem?_range hj]
  rfl

/-- The environment's answers to one run and then to another. -/
theorem allOk_add (m n : Nat) : allOk (m + n) = allOk m ++ allOk n := (List.replicate_append_replicate ..).symm

/-- Settles O55: SETUP's run leaves the premises of VERIFY's run with the candidate that is SETUP's secret. -/
theorem setupThenVerifySucceeds : Obligations.SetupThenVerifySucceeds := by
  intro s k pin sec fs is h hv
  obtain ⟨j, hj⟩ : ∃ j, j + 1 = s.cfg.rounds := ⟨_, Nat.sub_add_cancel h.inv.legal.1⟩
  have hfits := setupRecord_fits (pin := pin) (sec := sec) h.inv.legal.2.1
  have hcnt : (setupRecord s.cfg.rounds pin sec).cnt.toNat = s.cfg.rounds := toNat_rounds h.inv.legal.2.1
  have hanswers : s.inputs = allOk (4 * s.cfg.rounds + 6) ++ (allOk 11 ++ is) := by
    rw [h.answers, ← List.append_assoc, ← allOk_add]
  obtain ⟨t, hrun, hblk, hstore, -, hslots, hcfg, hhost, hinputs, hrefusal⟩ :=
    setupRunsToOk s k pin sec _ _ { h with answers := hanswers } hv
  rw [← hcfg] at hj hfits hcnt hstore hslots
  have hverify : validVerify (some k) pin [] = true := by
    obtain ⟨h4, h8, hk, -⟩ := validSetup_iff.1 hv
    exact validVerify_iff.2 ⟨h4, h8, hk, rfl⟩
  have ht : t.StartsAllOk (encode (.verify (some k) pin [])) fs (t.cfg.rounds + 10 - j) is := {
    unrefused := hrefusal
    inv := runSteps_inv h.inv hrun
    idle := congrArg Block.phase hblk
    next := hhost
    answers := by rw [hinputs, show t.cfg.rounds + 10 - j = 11 by omega] }
  have hslot : t.env.slots[j]? = some (.keyed (Config.mac (bytes32 sec) [0x01])) := by
    rw [hslots, List.getElem?_replicate_of_lt (by omega)]
  have hdecode : decodeRecord t.cfg.rounds ((encodeRecord (setupRecord t.cfg.rounds pin sec)).take t.cfg.recSize) =
      .ok (setupRecord t.cfg.rounds pin sec) := by
    rw [take_encodeRecord hfits, decodeRecord_encodeRecord hfits]
  obtain ⟨t', hrun', hblk', -, -, -, -, -, hhost', hinputs', -⟩ :=
    verifyMatchRun t k pin fs is _ _ _ _ _ j (hj.trans hcnt.symm) ht hverify hstore hdecode hslot
      (setupRecord_block (by omega)) (candidate_setupRecord hj).symm rfl
  rw [show t.cfg.rounds + 11 - j = 12 by omega] at hrun'
  refine ⟨t, t', hrun, hrun', congrArg Block.rsp hblk, ?_, hhost', hinputs'⟩
  rw [hblk', hblk]
  rfl

end Sys2Proof.Machine
end

section
/-! PROOFS. The record codec field by field: where ENCODE puts each byte, and what DECODE makes of each. -/

namespace Sys2Proof.Machine

variable {rounds : Nat} {b : List Byte} {r : Record}

/-! ## The fields of a byte sequence -/

/-- The register values that DECODE reads from a byte sequence once its two tests are passed (R234). -/
def recordFields (rounds : Nat) (b : List Byte) : Record :=
  { cnt := b.getD 0 0, enc := blocksFrom rounds (b.drop 1), tag := bytes32 (b.drop (1 + 32 * rounds)) }

theorem recordFields_cons (c : Byte) (l : List Byte) : recordFields rounds (c :: l) =
    { cnt := c, enc := blocksFrom rounds l, tag := bytes32 (l.drop (32 * rounds)) } := by
  rw [recordFields, Nat.add_comm, List.drop_succ_cons]
  rfl

theorem decodeRecord_protocol (h : b.length ≠ 33 + 32 * rounds) : decodeRecord rounds b = .error .protocol := if_pos h

theorem decodeRecord_recordRange (h : b.length = 33 + 32 * rounds) (hc : rounds < (b.getD 0 0).toNat) :
    decodeRecord rounds b = .error .recordRange := by
  rw [decodeRecord, if_neg (not_not.2 h), if_pos hc]

theorem decodeRecord_wellFormed (h : WellFormedRecord rounds b) :
    decodeRecord rounds b = .ok (recordFields rounds b) := by
  obtain ⟨hl, hc⟩ := h
  rw [decodeRecord, if_neg (not_not.2 hl), if_neg (not_lt.2 hc), recordFields]

/-- Block `i` of consecutive 32-byte fields begins at offset `32 * i`. -/
theorem blocksFrom_getElem {n i : Nat} {l : List Byte} (h : i < (blocksFrom n l).length) :
    (blocksFrom n l)[i] = bytes32 (l.drop (32 * i)) := by
  induction n generalizing i l with
  | zero => exact absurd h (Nat.not_lt_zero i)
  | succ n ih =>
    cases i with
    | zero => rfl
    | succ i => exact (ih _).trans (by rw [List.drop_drop, Nat.mul_succ, Nat.add_comm])

theorem bytes32_drop_getElem (l : List Byte) (k : Nat) {j : Nat} (hj : j < 32) :
    (bytes32 (l.drop k))[j] = l.getD (k + j) 0 := by
  simp only [bytes32_getElem, List.getD_eq_getElem?_getD, List.getElem?_drop]

/-- Byte `j` of `ENC[i]` is read at offset `1 + 32 * i + j` (R232). -/
theorem recordFields_enc_getElem {i j : Nat} (hi : i < (recordFields rounds b).enc.length) (hj : j < 32) :
    ((recordFields rounds b).enc[i])[j] = b.getD (1 + 32 * i + j) 0 := by
  simp only [recordFields, blocksFrom_getElem, List.drop_drop, bytes32_drop_getElem]

/-- Byte `j` of `TAG` is read at offset `1 + 32 * ROUNDS + j` (R232). -/
theorem recordFields_tag_getElem {j : Nat} (hj : j < 32) :
    (recordFields rounds b).tag[j] = b.getD (1 + 32 * rounds + j) 0 := bytes32_drop_getElem b _ hj

/-! ## ENCODE and the fields undo each other -/

/-- The fields of an encoded record are its registers, whatever its counter (R232, R233). -/
theorem recordFields_encodeRecord (h : r.enc.length = rounds) : recordFields rounds (encodeRecord r) = r := by
  subst h
  rw [encodeRecord, recordFields_cons, blocksFrom_flatMap, List.drop_left' (flatMap_toList_length _), bytes32_toList]

/-- The bytes of a 32-byte field are the first 32 of the sequence it is cut from. -/
theorem bytes32_toList_take {l : List Byte} (h : 32 ≤ l.length) : (bytes32 l).toList = l.take 32 := by
  apply List.ext_getElem
  · simp [h]
  · intro j hj _
    rw [Vector.length_toList] at hj
    rw [List.getElem_take, Vector.getElem_toList, bytes32_getElem, List.getD_eq_getElem]

/-- The bytes of `n` consecutive 32-byte fields are the sequence's first `32 * n`. -/
theorem flatMap_blocksFrom {n : Nat} {l : List Byte} (h : 32 * n ≤ l.length) :
    (blocksFrom n l).flatMap Vector.toList = l.take (32 * n) := by
  induction n generalizing l with
  | zero => rfl
  | succ n ih =>
    have hrest : 32 * n ≤ (l.drop 32).length := by
      rw [List.length_drop]
      omega
    rw [blocksFrom, List.flatMap_cons, ih hrest, bytes32_toList_take (by omega), Nat.mul_succ, Nat.add_comm,
      List.take_add]

/-- A byte sequence of a record's length is the encoding of its fields, whatever its counter (R232, R233). -/
theorem encodeRecord_recordFields (h : b.length = 33 + 32 * rounds) : encodeRecord (recordFields rounds b) = b := by
  cases b with
  | nil =>
    rw [List.length_nil] at h
    omega
  | cons c l =>
    rw [List.length_cons] at h
    have htag : (l.drop (32 * rounds)).length = 32 := by
      rw [List.length_drop]
      omega
    rw [recordFields_cons, encodeRecord, flatMap_blocksFrom (by omega), bytes32_toList_take htag.ge,
      List.take_of_length_le htag.le, List.take_append_drop]

/-! ## The codec's statements -/

theorem getElem?_eq_some_getD {l : List Byte} {k : Nat} (h : k < l.length) : l[k]? = some (l.getD k 0) := by
  rw [List.getElem?_eq_getElem h, List.getD_eq_getElem]

/-- Settles O21: the record is the fields of its encoding, and the byte of each field is read where R232 has it. -/
theorem recordLayout : Obligations.RecordLayout := by
  intro rounds r h
  have hlen : (encodeRecord r).length = 33 + 32 * rounds := h ▸ encodeRecord_length r
  have hfields := recordFields_encodeRecord h
  refine ⟨hlen, rfl, fun i hi j hj => ?_, fun j hj => ?_⟩
  · have hbyte : ((recordFields rounds (encodeRecord r)).enc[i]'(hfields.symm ▸ hi))[j] =
        (encodeRecord r).getD (1 + 32 * i + j) 0 := recordFields_enc_getElem _ hj
    simp only [hfields] at hbyte
    rw [hbyte, getElem?_eq_some_getD (by omega)]
  · have hbyte : (recordFields rounds (encodeRecord r)).tag[j] = (encodeRecord r).getD (1 + 32 * rounds + j) 0 :=
      recordFields_tag_getElem hj
    rw [hfields] at hbyte
    rw [hbyte, getElem?_eq_some_getD (by omega)]

/-- Settles O22, by the two tests of DECODE and the fields it reads. -/
theorem decodeRecordByField : Obligations.DecodeRecordByField := fun _ _ =>
  ⟨decodeRecord_protocol, decodeRecord_recordRange, fun hl hc =>
    ⟨_, decodeRecord_wellFormed ⟨hl, hc⟩, rfl, blocksFrom_length _ _,
      fun _ hi _ hj => recordFields_enc_getElem hi hj, fun _ hj => recordFields_tag_getElem hj⟩⟩

/-- Settles O23: ENCODE and the fields undo each other; ENCODE is injective because the fields are a function of the
bytes. -/
theorem recordRoundTrip : Obligations.RecordRoundTrip := by
  refine ⟨fun rounds r h hc => decodeRecord_encodeRecord ⟨h, hc⟩, fun rounds b hl hc =>
    ⟨_, decodeRecord_wellFormed ⟨hl, hc⟩, encodeRecord_recordFields hl⟩, fun r r' hlen h => ?_⟩
  rw [← recordFields_encodeRecord hlen, h, recordFields_encodeRecord rfl]

end Sys2Proof.Machine
end

section
/-! PROOFS. VERIFY on a unit that holds no record: the READ's answer, and the fault that DECODE raises. -/

namespace Sys2Proof.Machine

variable {s : State} {is : List Input} {a : Answer} {l : List Byte} {f : FaultCode}

/-- A READ of a unit that holds data can be answered with all its bytes (R353). -/
theorem envAnswer_read_wholeUnit {c : Collaborators} {cfg : Cfg} {e : Env} {ad : Nat} (h : e.mem.unit ad = .data l)
    (n : Nat) : envAnswer c cfg e (.read ad n) .wholeUnit = .answered (.readOk l) e := by
  simp [envAnswer, serveWhole, h]

/-- A unit with no more bytes than asked is answered whole by either draw (R74, R353). -/
theorem envAnswer_read_short {c : Collaborators} {cfg : Cfg} {e : Env} {ad n : Nat} (h : e.mem.unit ad = .data l)
    (hn : l.length ≤ n) (ha : a = .ok ∨ a = .wholeUnit) :
    envAnswer c cfg e (.read ad n) a = .answered (.readOk l) e := by
  obtain rfl | rfl := ha
  · rw [envAnswer_read_data h, List.take_of_length_le hn]
  · exact envAnswer_read_wholeUnit h n

/-- What a fault leaves of a running block (R307). -/
theorem State.Awaits.raiseFault_eq (h : s.Awaits a is) (f : FaultCode) :
    s.blk.raiseFault f = { phase := .fault, outstanding := none, regs := Regs.zero s.cfg.rounds,
                           rsp := { s.blk.rsp with valid := false }, faultCode := f } := by
  have hvalid : s.blk.rsp.valid = false := h.inv.block.notValid ((Phase.running_iff _).1 h.running).1
  rw [← h.inv.block.encCount, ← hvalid]
  rfl

/-- The step in which the READ is answered with bytes that DECODE faults on: the block stops, and nothing else changes
(R234, R307). -/
theorem State.Awaits.step_decodeFault (h : s.Awaits a is) (hp : s.blk.phase = .vRead)
    (he : envAnswer Config.collaborators s.cfg s.env (.read s.cfg.recordAddr s.cfg.recSize) a =
      .answered (.readOk l) s.env)
    (hd : decodeRecord s.cfg.rounds l = .error f) :
    step s = .next { s with inputs := is, blk :=
      { phase := .fault, outstanding := none, regs := Regs.zero s.cfg.rounds,
        rsp := { s.blk.rsp with valid := false }, faultCode := f } } := by
  have hstop : verifyAfterRead s.cfg s.blk l = s.blk.raiseFault f := by
    unfold verifyAfterRead
    rw [hd]
  rw [← h.raiseFault_eq, ← hstop]
  exact h.step_answered (h.inv.block.waitsIn hp) he (resume_vRead hp)

/-- Settles O59: DECODE gets all the bytes of the unit in each case, and faults on them. -/
theorem wrongLengthOrRangeFaults : Obligations.WrongLengthOrRangeFaults := by
  intro s is b a h hp hb
  refine ⟨fun hlt ha => ?_, fun hgt ha => ?_, fun hlen hc ha => ?_⟩
  · exact h.step_decodeFault hp (envAnswer_read_short hb hlt.le ha) (decodeRecord_protocol hlt.ne)
  · subst ha
    exact h.step_decodeFault hp (envAnswer_read_wholeUnit hb _) (decodeRecord_protocol hgt.ne')
  · exact h.step_decodeFault hp (envAnswer_read_short hb hlen.le ha) (decodeRecord_recordRange hlen hc)

end Sys2Proof.Machine
end

section
/-! PROOFS. What a step of the system is, the datapath's laws, and the contracts of the MAC port and of the slot
bank. -/

namespace Sys2Proof.Machine

variable {c : Collaborators} {cfg : Cfg} {e : Env} {s : State}

/-! ## What a step is -/

/-- Settles O14: with the frame taken, the ACCEPT step is the command's. -/
theorem stepRunsDecodedCommand : Obligations.StepRunsDecodedCommand := fun _ _ _ _ h hf => h.step_exec hf

/-- Settles O15: the answered request's effect on ENV, and the block handles the response. -/
theorem stepHandlesResponse : Obligations.StepHandlesResponse := fun _ _ _ _ _ _ _ h ho he hb => h.step_answered ho he hb

/-- Where neither an input nor an acceptable frame comes, the step only uses up a `quiet` (R260, R362). -/
theorem step_holds (hl : s.cfg.legal) (hc : s.canAccept = false)
    (hi : s.inputs = [] ∨ ∃ is, s.inputs = .quiet :: is) : step s = .next s.passQuiet :=
  (systemStep_quiet hl hi).trans (if_neg (Bool.eq_false_iff.1 hc))

/-- Settles O16: no frame can be accepted, so the block holds (`step_holds`). -/
theorem holdsWithoutInput : Obligations.HoldsWithoutInput := by
  intro s _ hl hwait
  have hc : s.canAccept = false := by
    rw [Bool.eq_false_iff, ne_eq, canAccept_iff, not_and_or, not_not]
    exact hwait
  refine ⟨fun hi => ?_, fun is hi => ?_⟩
  · have hq : s.passQuiet = s := State.passQuiet_eq (by rw [hi]; rfl)
    rw [step_holds hl hc (.inl hi), hq]
  · rw [step_holds hl hc (.inr ⟨is, hi⟩), State.passQuiet, hi]
    rfl

/-! ## The datapath -/

/-- Every lane of `zero32` is 0x00 (R13). -/
@[simp] theorem zero32_getElem (j : Nat) (h : j < 32) : zero32[j] = 0 := Vector.getElem_replicate h

/-- Masking with `zero32` changes nothing (R270). -/
theorem xor32_zero (a : Bytes32) : xor32 a zero32 = a := by
  apply Vector.ext
  intro j hj
  rw [xor32_getElem, zero32_getElem]
  exact BitVec.xor_zero

/-- A value masked with itself is `zero32` (R270). -/
theorem xor32_self (a : Bytes32) : xor32 a a = zero32 := by
  apply Vector.ext
  intro j hj
  rw [xor32_getElem, zero32_getElem]
  exact BitVec.xor_self

/-- Settles O19: the lanes of `XOR32`, and its laws lane by lane. -/
theorem xor32LanesAndLaws : Obligations.Xor32LanesAndLaws :=
  ⟨xor32_getElem, xor32_cancel, xor32_zero, xor32_self⟩

/-- Settles O20: the fold over the lanes is the test of all of them. -/
theorem eq32ExactlyWhenAllLanesEqual : Obligations.Eq32ExactlyWhenAllLanesEqual := fun _ _ => eq32_iff_lanes

/-! ## The MAC port and the slot bank -/

/-- A slot in the bank answers the output of its state before and is keyed by the input (R265). -/
theorem envAnswer_slot_ok {i : Byte} {st : SlotState} (h : e.slots[i.toNat]? = some st) (x : Bytes32) :
    envAnswer c cfg e (.slot i x) .ok =
      .answered (.slotOk (c.slotOut i st x)) { e with slots := e.slots.set i.toNat (.keyed x) } := by
  simp only [envAnswer, serve, h]

/-- A slot operation that fails leaves the drawn state in its slot (R265). -/
theorem envAnswer_slot_fail (i : Byte) (x : Bytes32) (left : Residue) :
    envAnswer c cfg e (.slot i x) (.fail left) =
      .answered .hwFail { e with slots := e.slots.set i.toNat left.slot } := rfl

/-- Settles O24: that there are no other answers, and that ENV stays, is `envAnswer_mac`. -/
theorem macContract : Obligations.MacContract := by
  intro cfg e key msg
  refine ⟨rfl, fun _ => rfl, fun a r e' h => ?_⟩
  obtain ⟨he, hr⟩ := envAnswer_mac h
  exact ⟨he, hr.imp_left And.right⟩

/-- Settles O25: what `Ok` leaves is `envAnswer_slotOk`; every state after `HwFail` is a drawn residue. -/
theorem slotContract : Obligations.SlotContract := by
  intro cfg e i x hi
  refine ⟨?_, fun st => ?_, fun left r e' h => ?_⟩
  · have hst : e.slots[i.toNat]? = some e.slots[i.toNat] := List.getElem?_eq_getElem hi
    have hok := envAnswer_slot_ok (c := Config.collaborators) (cfg := cfg) hst x
    obtain ⟨hkeyed, hothers⟩ := envAnswer_slotOk hok
    exact ⟨_, _, hst, hok, hkeyed, rfl, hothers⟩
  · exact ⟨⟨.unchanged, st⟩, _, envAnswer_slot_fail i x _, List.getElem?_set_self hi⟩
  · rw [envAnswer_slot_fail] at h
    cases h
    exact ⟨rfl, rfl, fun j hj => List.getElem?_set_ne hj.symm⟩

end Sys2Proof.Machine
end

section
/-! PROOFS. Errors, faults and acceptance: the end of a command whose transaction failed, the steps into and in FAULT, the
ACCEPT step, and a reset right after it. -/

namespace Sys2Proof.Machine

variable {c : Collaborators} {cfg : Cfg} {e e' : Env} {b b' : Block} {s t : State} {is : List Input}

/-! ## A failed transaction -/

/-- Something is outstanding while a command runs (R40). -/
theorem Block.Inv.outstanding_of_running (h : b.Inv cfg) (hr : b.phase.running = true) :
    ∃ req, b.outstanding = some req := by
  rw [h.waits]
  cases hp : b.phase with
  | idle | fault =>
    rw [hp] at hr
    cases hr
  | _ => exact ⟨_, rfl⟩

/-- The failure response of a port is one of its responses (R110). -/
theorem Request.answered_failureOf (req : Request) : req.Answered (failureOf req) := by
  cases req with
  | erase _ => exact .inr (.inr rfl)
  | _ => exact .inr rfl

/-- A RESPONSE step on a port's failure raises the error that is reported with the port's status (R301, R303). -/
theorem Advance.raise_of_failure {req : Request} (h : Advance cfg b (failureOf req) b') :
    ∃ x : CmdError, x.status = failureStatus req ∧ b' = b.raise x := by
  cases req with
  | mac _ _ =>
    cases h with
    | cryptoFail => exact ⟨.cryptoError, rfl, rfl⟩
    | sErase _ _ hr => exact nomatch hr
  | slot _ _ =>
    cases h with
    | hwFail => exact ⟨.hardwareError, rfl, rfl⟩
    | sErase _ _ hr => exact nomatch hr
  | read _ _ =>
    cases h with
    | readFail => exact ⟨.storageError, rfl, rfl⟩
    | sErase _ _ hr => exact nomatch hr
  | erase _ =>
    cases h with
    | eraseFail => exact ⟨.storageError, rfl, rfl⟩
    | sErase _ _ hr => exact nomatch hr
  | write _ _ =>
    cases h with
    | writeFail => exact ⟨.storageError, rfl, rfl⟩
    | sErase _ _ hr => exact nomatch hr

/-- The failure of the outstanding transaction completes the command with the status of its port (R303). -/
theorem Block.Inv.resume_failure (h : b.Inv cfg) {req : Request} (ho : b.outstanding = some req) :
    resume cfg b (failureOf req) = .ok (Block.completed cfg .none (failureStatus req) zero32) := by
  obtain ⟨b', hb⟩ := resume_total rfl (h.waits.symm.trans ho) req.answered_failureOf h.counters h.encCount
  obtain ⟨x, hx, rfl⟩ := (resume_advance hb).raise_of_failure
  rw [hb, Block.raise_eq h.encCount, (h.busy (h.running_of_outstanding ho)).noFault, hx]

/-- Settles O29: the outstanding request is answered its failure, which every phase raises (`Block.Inv.resume_failure`). -/
theorem failedTransactionAborts : Obligations.FailedTransactionAborts := by
  intro s left is h
  obtain ⟨req, ho⟩ := h.inv.block.outstanding_of_running h.running
  exact ⟨req, ho, h.step_answered ho rfl (h.inv.block.resume_failure ho)⟩

/-! ## FAULT -/

/-- A RESPONSE step writes the fault code only in V_READ (R234, R307). -/
theorem Advance.faultCode {r : Response} (h : Advance cfg b r b') :
    b'.faultCode = b.faultCode ∨ b.phase = .vRead := by
  cases h with
  | vRead hp l => exact .inr hp
  | sMacV _ v => exact .inl (setupLoop_keeps cfg _).2.1
  | sMacK _ k _ hk =>
    obtain ⟨-, rfl⟩ := setupAfterMacK_ok hk
    exact .inl (setupLoop_keeps cfg _).2.1
  | vMacK _ k _ hk =>
    obtain ⟨x, -, rfl⟩ := verifyAfterMacK_ok hk
    -- an opaque block: the unifier would otherwise compare its bytes
    generalize xor32 x k = y
    exact .inl rfl
  | vMacT _ t =>
    obtain heq | heq := verifyAfterMacT_cases b t
    · rw [heq]
      exact .inl rfl
    · rw [heq]
      exact .inl rfl
  | vMacU _ u => exact .inl (recommitLoop_keeps cfg _).2
  | vRecommit _ o => exact .inl (recommitLoop_keeps cfg _).2
  | _ => exact .inl rfl

/-- A step leaves the fault code, clears it, or is the RESPONSE step of V_READ (R307, R350). -/
theorem Moves.faultCode (h : Moves c cfg e b e' b') :
    b'.faultCode = b.faultCode ∨ b'.faultCode = .none ∨ b.phase = .vRead := by
  cases h with
  | reset _ => exact .inr (.inl rfl)
  | answer _ _ hb => exact hb.faultCode.imp_right .inr
  | _ => exact .inl rfl

/-- In FAULT a step that is no reset holds: no frame is accepted and nothing is outstanding (R307). -/
theorem State.Inv.step_in_fault (hi : s.Inv) (hp : s.blk.phase = .fault) (hn : s.noReset = true) (h : step s = .next t) :
    t.blk = s.blk ∧ t.env = s.env ∧ t.host = s.host := by
  obtain ⟨hl, -⟩ | ⟨-, ⟨left, is, hin, -⟩ | ⟨hc, -⟩ | ⟨-, rfl⟩ | ⟨a, is, -, -, h⟩⟩ := systemStep_next h
  · exact absurd hi.legal hl
  · simp [State.noReset, hin] at hn
  · exact nomatch hp.symm.trans (canAccept_iff.1 hc).1
  · exact ⟨rfl, rfl, rfl⟩
  · obtain rfl | ⟨req, _, _, _, ho, -⟩ := answerNext_next h
    · exact ⟨rfl, rfl, rfl⟩
    · exact nomatch ho.symm.trans (hi.block.waitsIn hp)

/-- Settles O33: DECODE's fault stops the block, FAULT holds but for a reset, and no step but V_READ's writes a code. -/
theorem malformedRecordFaults : Obligations.MalformedRecordFaults := by
  refine ⟨fun s is l f h hp hl hd => h.step_decodeFault hp (envAnswer_read_data hl _) hd, fun s hi _ hp hn => ?_,
    fun s t _ h hnone hset => ?_⟩
  · obtain ⟨t, h⟩ := noStepStops s hi
    exact ⟨t, h, hi.step_in_fault hp hn h⟩
  · obtain ⟨-, hm⟩ := systemStep_moves h
    obtain hkept | hcleared | hread := hm.faultCode
    · exact absurd (hkept.trans hnone) hset
    · exact absurd hcleared hset
    · exact hread

/-! ## The acceptance of a command -/

/-- The request the ACCEPT step of a command makes: SETUP's ERASE or VERIFY's READ, and none for a frame that is not valid
(R104, R142, R183). -/
def firstRequest (cfg : Cfg) : Instr → Option Request
  | .setup plen pin sec => if validSetup plen pin sec then some (.erase cfg.recordAddr) else none
  | .verify plen pin excess => if validVerify plen pin excess then some (.read cfg.recordAddr cfg.recSize) else none

/-- The block after the acceptance of a command: a response is no longer valid while the command runs, or PARAM_ERROR has
completed it (R317, R104). -/
def Block.Accepted (b : Block) : Prop :=
  b.rsp.valid = false ∧ b.phase.running = true ∨
    b.rsp = { valid := true, status := Status.code .paramError, key := zero32 } ∧ b.phase = .idle

/-- An acceptance changes the block only, and makes the command's first request (R260, R317). -/
theorem exec_accepts (i : Instr) (hp : s.blk.phase = .idle) :
    ∃ b, exec i s = .next (s.setBlk b) ∧ b.Accepted ∧ b.outstanding = firstRequest s.cfg i := by
  cases i with
  | setup plen pin sec =>
    cases hv : validSetup plen pin sec with
    | true => exact ⟨_, exec_setup_valid hp hv, .inl ⟨rfl, rfl⟩, (if_pos hv).symm⟩
    | false =>
      refine ⟨s.blk.accept.raise .paramError, ?_, .inr ⟨rfl, rfl⟩, (if_neg (Bool.eq_false_iff.1 hv)).symm⟩
      simp only [exec, execSetup, if_pos hp, hv, Bool.false_eq_true, if_false]
  | verify plen pin excess =>
    cases hv : validVerify plen pin excess with
    | true => exact ⟨_, exec_verify_valid hp hv, .inl ⟨rfl, rfl⟩, (if_pos hv).symm⟩
    | false =>
      refine ⟨s.blk.accept.raise .paramError, ?_, .inr ⟨rfl, rfl⟩, (if_neg (Bool.eq_false_iff.1 hv)).symm⟩
      simp only [exec, execVerify, if_pos hp, hv, Bool.false_eq_true, if_false]

/-- The step that accepts the frame presented: the frame is taken, and the command's first request is made (R317). -/
theorem State.Presents.step_accepts {f : Frame} {fs : List Frame} {i : Instr} (h : s.Presents f fs)
    (hf : decode f = .ok i) :
    ∃ b, step s = .next ((s.passQuiet.setHost fs).setBlk b) ∧ b.Accepted ∧ b.outstanding = firstRequest s.cfg i := by
  rw [h.step_exec hf]
  exact exec_accepts i h.idle

/-- Outside IDLE a command is not accepted, and leaves the state as it is (R317). -/
theorem exec_not_idle (i : Instr) (hp : s.blk.phase ≠ .idle) : exec i s = .next s := by
  cases i with
  | setup _ _ _ => exact if_neg hp
  | verify _ _ _ => exact if_neg hp

/-- Outside IDLE a step leaves the host's frames where they are (R317). -/
theorem step_host_of_not_idle (hp : s.blk.phase ≠ .idle) (h : step s = .next t) : t.host = s.host := by
  obtain ⟨-, rfl⟩ | ⟨-, ⟨_, _, -, rfl⟩ | ⟨hc, -⟩ | ⟨-, rfl⟩ | ⟨_, _, -, -, h⟩⟩ := systemStep_next h
  · rfl
  · rfl
  · exact absurd (canAccept_iff.1 hc).1 hp
  · rfl
  · exact (answerNext_frame h).2.1

/-- Settles O12: only an ACCEPT step takes a frame, and what it leaves is `Block.Accepted`. -/
theorem acceptedOnlyInIdle : Obligations.AcceptedOnlyInIdle := by
  refine ⟨fun s t h hp => step_host_of_not_idle hp h, fun i s hp => exec_not_idle i hp, fun s t f fs i h hf hs => ?_⟩
  obtain ⟨b, hb, hacc, -⟩ := h.step_accepts hf
  obtain rfl := Host.Outcome.next.inj (hb.symm.trans hs)
  exact ⟨rfl, hacc⟩

/-! ## A reset right after an acceptance -/

/-- The unit after an interrupted ERASE, for each draw (R351). -/
theorem unit_afterBadErase (m : Memory) (a : Nat) (u : UnitResidue) :
    (afterBadErase m a u).unit a = if u = .erased then .erased else m.unit a := by
  cases u with
  | erased => exact Memory.unit_erase_same m a
  | unchanged => rfl
  | data _ => rfl

/-- A frame that is not valid made no request, so a reset interrupts nothing (R104, R351). -/
theorem Env.interrupted_setup_invalid {plen : Option Byte} {pin sec : List Byte} (hv : validSetup plen pin sec = false)
    (left : Residue) : e.interrupted cfg (firstRequest cfg (.setup plen pin sec)) left = e := by
  simp only [firstRequest, hv]
  rfl

/-- SETUP's first request is the ERASE, whose unit a reset leaves as drawn (R142, R351). -/
theorem Env.interrupted_setup_valid {plen : Option Byte} {pin sec : List Byte} (hv : validSetup plen pin sec = true)
    (left : Residue) : e.interrupted cfg (firstRequest cfg (.setup plen pin sec)) left =
      { e with mem := afterBadErase e.mem cfg.recordAddr left.unit } := by
  simp only [firstRequest, hv]
  rfl

/-- VERIFY's first request is a READ, and an interrupted READ leaves ENV (R183, R351). -/
theorem Env.interrupted_verify (plen : Option Byte) (pin excess : List Byte) (left : Residue) :
    e.interrupted cfg (firstRequest cfg (.verify plen pin excess)) left = e := by
  simp only [firstRequest]
  split
  · rfl
  · rfl

/-- The run of an acceptance and a reset: the block is reset, and ENV is what the interrupted first request leaves (R351). -/
theorem State.Presents.accept_then_reset {f : Frame} {fs : List Frame} {i : Instr} {left : Residue} (h : s.Presents f fs)
    (hf : decode f = .ok i) (hin : s.inputs = .quiet :: .reset left :: is) :
    runSteps 2 s = .next { s with
      blk := Block.reset s.cfg.rounds, env := s.env.interrupted s.cfg (firstRequest s.cfg i) left, host := fs,
      inputs := is } := by
  obtain ⟨b, hs, -, ho⟩ := h.step_accepts hf
  have hreset : ((s.passQuiet.setHost fs).setBlk b).inputs = .reset left :: is := congrArg afterQuiet hin
  rw [← ho]
  exact runSteps_succ hs (runSteps_succ (systemStep_reset h.legal hreset) rfl)

/-- Settles O58, by the command accepted: only a valid SETUP made a request that a reset can turn into a change of ENV. -/
theorem powerLossRightAfterAcceptance : Obligations.PowerLossRightAfterAcceptance := by
  intro s f fs i left is h hf hin
  refine ⟨_, h.accept_then_reset hf hin, rfl, rfl, rfl, rfl, h.unrefused, ?_⟩
  cases i with
  | verify plen pin excess =>
    rw [Env.interrupted_verify]
    exact ⟨rfl, fun _ _ => rfl, nofun, nofun, fun _ _ _ _ => rfl⟩
  | setup plen pin sec =>
    cases hv : validSetup plen pin sec with
    | false =>
      rw [Env.interrupted_setup_invalid hv]
      refine ⟨rfl, fun _ _ => rfl, ?_, fun _ _ _ _ _ => rfl, nofun⟩
      rintro _ _ _ ⟨⟩ hv'
      exact absurd (hv.symm.trans hv') Bool.false_ne_true
    | true =>
      rw [Env.interrupted_setup_valid hv]
      refine ⟨rfl, fun _ ha => unit_afterBadErase_other _ _ ha, fun _ _ _ _ _ => unit_afterBadErase _ _ _, ?_, nofun⟩
      rintro _ _ _ ⟨⟩ hv'
      exact absurd (hv'.symm.trans hv) Bool.false_ne_true

end Sys2Proof.Machine
end

section
/-! PROOFS. Reset and power loss: the registers after a reset, what it leaves of the outstanding transaction, and the
invariants at power-on. -/

namespace Sys2Proof.Machine

variable {cfg : Cfg} {s : State} {left : Residue} {is : List Input}

/-! ## A reset -/

/-- The step where a reset comes (R350, R351). -/
theorem step_reset (hl : s.cfg.legal) (hi : s.inputs = .reset left :: is) :
    step s = .next ((s.setInputs is).applyReset left) := systemStep_reset hl hi

/-- ENV after a reset is what it leaves of the outstanding transaction (R351). -/
theorem State.applyReset_env (s : State) (left : Residue) :
    (s.applyReset left).env = s.env.interrupted s.cfg s.blk.outstanding left := rfl

/-- A reset can come at any time, with any draw for the outstanding transaction (R313, R351). -/
theorem exists_step_reset (hl : s.cfg.legal) {req : Request} (ho : s.blk.outstanding = some req) (left : Residue)
    (is : List Input) : ∃ t, step { s with inputs := .reset left :: is } = .next t ∧
      t.env = s.env.interrupted s.cfg (some req) left :=
  ⟨_, step_reset hl rfl, ho ▸ State.applyReset_env (s.setInputs is) left⟩

/-- Settles O17: the block after a reset is `Block.reset`, and with nothing outstanding nothing is interrupted. -/
theorem resetSetsEveryRegister : Obligations.ResetSetsEveryRegister := by
  intro s left is _ hl hi
  refine ⟨_, step_reset hl hi, rfl, rfl, rfl, rfl, rfl, rfl, rfl, rfl, rfl, rfl, rfl, rfl, rfl, rfl, rfl, rfl, rfl, rfl,
    fun ho => ?_⟩
  rw [State.applyReset_env, State.setInputs_blk, ho]
  rfl

/-! ## What a reset leaves of the outstanding transaction -/

/-- An interrupted WRITE leaves the other units (R351). -/
theorem unit_leaveUnit_other (cfg : Cfg) (m : Memory) {a a' : Nat} (u : UnitResidue) (h : a' ≠ a) :
    (leaveUnit cfg m a u).unit a' = m.unit a' := by
  cases u with
  | unchanged => rfl
  | erased => exact Memory.unit_erase_other m h
  | data b => exact Memory.unit_write_other m _ h

/-- Both outcomes of an interrupted ERASE can be (R351). -/
theorem exists_afterBadErase {m : Memory} {a : Nat} {u : StoreUnit} (hu : u = m.unit a ∨ u = .erased) :
    ∃ r, (afterBadErase m a r).unit a = u := by
  obtain rfl | rfl := hu
  · exact ⟨.unchanged, rfl⟩
  · exact ⟨.erased, Memory.unit_erase_same m a⟩

/-- Every content that fits can be what an interrupted WRITE leaves (R351, R44). -/
theorem exists_leaveUnit (m : Memory) (a : Nat) {u : StoreUnit} (hu : u.fits cfg) :
    ∃ r, (leaveUnit cfg m a r).unit a = u := by
  cases u with
  | erased => exact ⟨.erased, Memory.unit_erase_same m a⟩
  | data b =>
    refine ⟨.data b, (Memory.unit_write_same m a _).trans ?_⟩
    rw [List.take_of_length_le hu]

/-- Settles O18, request by request: what a reset leaves is `Env.interrupted`, which is what was drawn. -/
theorem powerLossDraws : Obligations.PowerLossDraws := by
  intro s is _ hl
  refine ⟨fun left hi => ⟨_, step_reset hl hi, rfl, ?_⟩, fun a ho u hu => ?_, fun a b ho u hu => ?_, fun i x ho hx st => ?_⟩
  · rw [State.applyReset_env, State.setInputs_blk]
    refine ⟨fun key msg ho => ?_, fun a n ho => ?_, fun a ho => ?_, fun a b ho => ?_, fun i x ho => ?_⟩
    · rw [ho]
      rfl
    · rw [ho]
      rfl
    · rw [ho]
      exact ⟨rfl, unit_afterBadErase_same _ a _, fun _ h => unit_afterBadErase_other _ _ h⟩
    · rw [ho]
      exact ⟨rfl, fun _ h => unit_leaveUnit_other _ _ _ h⟩
    · rw [ho]
      exact ⟨rfl, fun _ h => List.getElem?_set_ne h.symm⟩
  · obtain ⟨r, hr⟩ := exists_afterBadErase hu
    obtain ⟨t, hs, he⟩ := exists_step_reset hl ho { unit := r, slot := .fresh } is
    exact ⟨_, t, hs, by rw [he]; exact hr⟩
  · obtain ⟨r, hr⟩ := exists_leaveUnit s.env.mem a hu
    obtain ⟨t, hs, he⟩ := exists_step_reset hl ho { unit := r, slot := .fresh } is
    exact ⟨_, t, hs, by rw [he]; exact hr⟩
  · obtain ⟨t, hs, he⟩ := exists_step_reset hl ho { unit := .unchanged, slot := st } is
    exact ⟨_, t, hs, by rw [he]; exact List.getElem?_set_self hx⟩

/-! ## Power-on -/

/-- Settles O42: the block is reset, every slot is there, and in IDLE nothing is claimed of the store and the slots. -/
theorem invariantsAtReset : Obligations.InvariantsAtReset := by
  have hpower : ∀ (cfg : Cfg) (m : Memory), cfg.legal → m.wf → (m.unit cfg.recordAddr).fits cfg →
      (State.powerOn cfg m).Inv ∧ (State.powerOn cfg m).Durable ∧ (State.powerOn cfg m).SlotsTracked :=
    fun cfg m hl hwf hfit => ⟨⟨hl, hwf, hfit, List.length_replicate, Block.reset_inv cfg⟩,
      State.durable_of_idle rfl, State.slotsTracked_of_idle rfl⟩
  exact ⟨hpower, hpower Cfg.built [] (by decide) .nil trivial⟩

end Sys2Proof.Machine
end

section
/-! PROOFS. Every command ends: the transactions a running command can still make, and that each answered one is one
fewer. -/

namespace Sys2Proof.Machine

variable {c : Collaborators} {cfg : Cfg} {b b' : Block} {s t : State} {p : Phase}

/-! ## The transactions a command can still make -/

/-- The most transactions a command can still make from a phase, the outstanding one with them, where the loop index is
`idx` (R141, R181, R362). -/
def Phase.transactionsLeft (rounds idx : Nat) : Phase → Nat
  | .idle | .fault => 0
  | .sErase => 4 * rounds + 6
  | .sMacTag => 4 * rounds + 5
  | .sMacU => 4 * rounds + 4
  | .sMacV => 4 * rounds + 3
  | .sSlotA => 4 * (rounds - idx) + 2
  | .sSlotB => 4 * (rounds - idx) + 1
  | .sSlotC => 4 * (rounds - idx)
  | .sMacK => 4 * (rounds - idx) - 1
  | .sWrite => 2
  | .sMacFinal => 1
  | .vRead => rounds + 10
  | .vEraseDec => rounds + 9
  | .vWriteDec => rounds + 8
  | .vMacV => rounds + 7
  | .vSlot => rounds + 6
  | .vMacK => rounds + 5
  | .vMacT => rounds + 4
  | .vMacU => rounds + 3
  | .vRecommit => rounds - 1 - idx + 3
  | .vEraseRst => 3
  | .vWriteRst => 2
  | .vMacFinal => 1

/-- The most transactions the block can still make before it is in IDLE or FAULT. -/
def Block.transactionsLeft (cfg : Cfg) (b : Block) : Nat := b.phase.transactionsLeft cfg.rounds b.regs.idx.toNat

theorem Block.transactionsLeft_of_phase (h : b.phase = p) :
    b.transactionsLeft cfg = p.transactionsLeft cfg.rounds b.regs.idx.toNat := h ▸ rfl

/-- SETUP's loop makes four transactions for each slot that is left, and two after them (R145 to R151). -/
theorem setupLoop_transactionsLeft (cfg : Cfg) (b : Block) :
    (setupLoop cfg b).transactionsLeft cfg = 4 * (cfg.rounds - b.regs.idx.toNat) + 2 := by
  by_cases h : b.regs.idx.toNat < cfg.rounds
  · rw [setupLoop_more h]
    rfl
  · rw [setupLoop_done h, Nat.sub_eq_zero_of_le (Nat.le_of_not_lt h)]
    rfl

/-- The re-commit loop makes one transaction for each slot that is left, and three after them (R192 to R194). -/
theorem recommitLoop_transactionsLeft (cfg : Cfg) (b : Block) :
    (recommitLoop cfg b).transactionsLeft cfg = cfg.rounds - 1 - b.regs.idx.toNat + 3 := by
  by_cases h : b.regs.idx.toNat + 2 ≤ cfg.rounds
  · rw [recommitLoop_more h]
    rfl
  · rw [recommitLoop_done h, show cfg.rounds - 1 - b.regs.idx.toNat = 0 by omega]
    rfl

/-- A running command waits on a transaction, so it has one left. -/
theorem Block.Inv.transactionsLeft_pos (h : b.Inv cfg) (hr : b.phase.running = true) : 0 < b.transactionsLeft cfg := by
  have hc := h.counters
  unfold Block.transactionsLeft
  cases hp : b.phase with
  | idle | fault =>
    rw [hp] at hr
    cases hr
  | sSlotC | sMacK =>
    rw [hp] at hc
    have := hc.2
    simp only [Phase.transactionsLeft]
    omega
  | _ => exact Nat.succ_pos _

/-- Every RESPONSE step of a running command leaves it fewer transactions. -/
theorem Advance.transactionsLeft_lt {x : Response} (h : Advance cfg b x b') (hl : cfg.legal) (hi : b.Inv cfg)
    (hr : b.phase.running = true) : b'.transactionsLeft cfg < b.transactionsLeft cfg := by
  have hpos := hi.transactionsLeft_pos hr
  have hrounds : 1 ≤ cfg.rounds := hl.1
  have hidx128 : b.regs.idx.toNat ≤ 128 := hi.idxRange.trans hl.2.1
  cases h with
  | cryptoFail | hwFail | readFail | eraseFail | writeFail | notErased | sMacFinal | vMacFinal => exact hpos
  | sErase hp | sMacTag hp | sMacU hp | sSlotA hp | sSlotB hp | vEraseDec hp | vWriteDec hp | vMacV hp
  | vSlot hp | vEraseRst hp | vWriteRst hp | sWrite hp =>
    rw [Block.transactionsLeft_of_phase hp]
    exact Nat.lt_succ_self _
  | sMacV hp v =>
    rw [Block.transactionsLeft_of_phase hp]
    exact (setupLoop_transactionsLeft _ _).trans_lt (Nat.lt_succ_self _)
  | sSlotC hp o =>
    obtain ⟨-, hidx⟩ := hi.countersIn hp
    rw [Block.transactionsLeft_of_phase hp]
    exact Nat.sub_one_lt (by omega : 4 * (cfg.rounds - b.regs.idx.toNat) ≠ 0)
  | sMacK hp k _ hk =>
    obtain ⟨-, hidx⟩ := hi.countersIn hp
    obtain ⟨-, rfl⟩ := setupAfterMacK_ok hk
    have hnext : (b.regs.idx + 1).toNat = b.regs.idx.toNat + 1 := toNat_succ (by omega)
    rw [Block.transactionsLeft_of_phase hp, setupLoop_transactionsLeft]
    simp only [Block.setRegs_regs, Regs.setIdx_idx, hnext, Phase.transactionsLeft]
    omega
  | vRead hp l =>
    obtain ⟨f, -, heq⟩ | ⟨rec, -, heq | ⟨-, heq⟩⟩ := verifyAfterRead_cases cfg b l
    · rw [heq]
      exact hpos
    · rw [heq]
      exact hpos
    · rw [heq, Block.transactionsLeft_of_phase hp]
      exact Nat.lt_succ_self _
  | vMacK hp k _ hk =>
    obtain ⟨x, -, rfl⟩ := verifyAfterMacK_ok hk
    -- an opaque block: the unifier would otherwise compare its bytes
    generalize xor32 x k = y
    rw [Block.transactionsLeft_of_phase hp]
    exact Nat.lt_succ_self _
  | vMacT hp t =>
    obtain heq | heq := verifyAfterMacT_cases b t
    · rw [heq, Block.transactionsLeft_of_phase hp]
      exact Nat.lt_succ_self _
    · rw [heq]
      exact hpos
  | vMacU hp u =>
    rw [Block.transactionsLeft_of_phase hp, verifyAfterMacU, recommitLoop_transactionsLeft]
    simp only [Phase.transactionsLeft]
    omega
  | vRecommit hp o =>
    obtain ⟨-, hidx⟩ := hi.countersIn hp
    have hnext : (b.regs.idx + 1).toNat = b.regs.idx.toNat + 1 := toNat_succ (by omega)
    rw [Block.transactionsLeft_of_phase hp, verifyAfterRecommit, recommitLoop_transactionsLeft]
    simp only [Block.setRegs_regs, Regs.setIdx_idx, hnext, Phase.transactionsLeft]
    omega

/-- An accepted command has at most its number of transactions before it (R362). -/
theorem exec_transactionsLeft_le {i : Instr} (hp : s.blk.phase = .idle) (h : exec i s = .next t) :
    t.blk.transactionsLeft s.cfg ≤ transactionBound s.cfg i := by
  cases i with
  | setup plen pin sec =>
    obtain ⟨hn, -⟩ | ⟨-, -, rfl⟩ | ⟨-, -, rfl⟩ := execSetup_next h
    · exact absurd hp hn
    · exact le_rfl
    · exact Nat.zero_le _
  | verify plen pin excess =>
    obtain ⟨hn, -⟩ | ⟨-, -, rfl⟩ | ⟨-, -, rfl⟩ := execVerify_next h
    · exact absurd hp hn
    · exact le_rfl
    · exact Nat.zero_le _

/-! ## The steps of a running command -/

/-- The draw `ok` answers every request (R74 to R76, R262, R265). -/
theorem serve_ne_silent (e : Env) (req : Request) : serve c e req ≠ .silent := by
  cases req with
  | mac _ _ | write _ _ => exact nofun
  | slot _ _ | read _ _ | erase _ =>
    simp only [serve]
    split <;> exact nofun

/-- No response is delivered exactly where the draw does not answer the request (R110). -/
theorem envAnswer_silent_iff {e : Env} {req : Request} {a : Answer} :
    envAnswer c cfg e req a = .silent ↔ a.answers req = false := by
  cases a with
  | ok => exact iff_of_false (serve_ne_silent e req) nofun
  | fail _ => exact iff_of_false nofun nofun
  | alreadyErased =>
    cases req with
    | erase _ => exact iff_of_false nofun nofun
    | _ => exact iff_of_true rfl rfl
  | wholeUnit =>
    cases req with
    | read _ _ =>
      refine iff_of_false ?_ nofun
      simp only [envAnswer, serveWhole]
      split <;> exact nofun
    | _ => exact iff_of_true rfl rfl

/-- A draw that answers the outstanding request gets a response, and the block handles it (R40, R266). -/
theorem State.Inv.response_handled (hi : s.Inv) {req : Request} (ho : s.blk.outstanding = some req) {a : Answer}
    (h : a.answers req = true) :
    ∃ r e b, envAnswer c s.cfg s.env req a = .answered r e ∧ resume s.cfg s.blk r = .ok b := by
  have hq : phaseRequest s.cfg s.blk.regs s.blk.phase = some req := hi.block.waits.symm.trans ho
  cases he : envAnswer c s.cfg s.env req a with
  | silent => exact nomatch h.symm.trans (envAnswer_silent_iff.1 he)
  | fault f =>
    refine absurd he (envAnswer_ne_fault (fun i x hreq => ?_) a f)
    rw [hi.slotCount]
    exact phaseRequest_slot (hreq ▸ hq) hi.block.counters
  | answered r e =>
    obtain ⟨b, hb⟩ := resume_total rfl hq (envAnswer_answered he) hi.block.counters hi.block.encCount
    exact ⟨r, e, b, rfl, hb⟩

/-- An input that answers every request answers the outstanding one. -/
theorem Input.answers_of_surelyAnswers {a : Answer} (h : Input.surelyAnswers (.answer a) = true) (req : Request) :
    a.answers req = true := by
  cases a with
  | ok | fail _ => rfl
  | alreadyErased | wholeUnit => cases h

/-- The state after a step of a running command in which no reset comes: the input is used up, and either it answered the
outstanding transaction and fewer are left, or nothing was answered and the block holds (R260, R362). -/
structure State.StepsTo (s : State) (x : Input) (ys : List Input) (t : State) : Prop where
  step : step s = .next t
  inv : t.Inv
  host : t.host = s.host
  cfg : t.cfg = s.cfg
  inputs : t.inputs = ys
  progress : s.answeredNext = true ∧ t.blk.transactionsLeft s.cfg < s.blk.transactionsLeft s.cfg ∨
    s.answeredNext = false ∧ x.surelyAnswers = false ∧ t.blk = s.blk

/-- A step in which nothing is answered uses up the input, and the rest holds. -/
theorem State.Inv.stepsTo_hold (hi : s.Inv) {x : Input} {ys : List Input} (hs : Machine.step s = .next (s.setInputs ys))
    (ha : s.answeredNext = false) (hx : x.surelyAnswers = false) : s.StepsTo x ys (s.setInputs ys) where
  step := hs
  inv := everyStepKeepsInv _ _ hi hs
  host := rfl
  cfg := rfl
  inputs := rfl
  progress := .inr ⟨ha, hx, rfl⟩

/-- A running command uses up its next input, and an answer to its transaction brings it nearer its end. -/
theorem State.Inv.stepsTo_of_running (hi : s.Inv) (hr : s.blk.phase.running = true) {x : Input} {ys : List Input}
    (hx : x.isReset = false) (hin : s.inputs = x :: ys) : ∃ t, s.StepsTo x ys t := by
  have hc : s.canAccept = false := not_canAccept hr
  cases x with
  | reset _ => cases hx
  | quiet =>
    have hs : Machine.step s = .next s.passQuiet := step_holds hi.legal hc (.inr ⟨ys, hin⟩)
    rw [State.passQuiet, hin] at hs
    exact ⟨_, hi.stepsTo_hold hs (by simp only [State.answeredNext, hin]) rfl⟩
  | answer a =>
    obtain ⟨req, ho⟩ := hi.block.outstanding_of_running hr
    have hn : s.answeredNext = a.answers req := by simp only [State.answeredNext, hin, ho]
    have hstep : Machine.step s = answerNext Config.collaborators (s.setInputs ys) a := systemStep_answer hi.legal hin hc
    cases hans : a.answers req with
    | false =>
      have hs : Machine.step s = .next (s.setInputs ys) := by
        simp only [hstep, answerNext, State.setInputs_blk, ho, envAnswer_silent_iff.2 hans]
      refine ⟨_, hi.stepsTo_hold hs (hn.trans hans) (Bool.eq_false_iff.2 fun h => ?_)⟩
      exact nomatch hans.symm.trans (Input.answers_of_surelyAnswers h req)
    | true =>
      obtain ⟨r, e, b, he, hb⟩ := hi.response_handled ho hans
      have hs := hstep.trans (answerNext_of (s := s.setInputs ys) ho he hb)
      exact ⟨_, {
        step := hs
        inv := everyStepKeepsInv _ _ hi hs
        host := rfl
        cfg := rfl
        inputs := rfl
        progress := .inl ⟨hn.trans hans, (resume_advance hb).transactionsLeft_lt hi.legal hi.block hr⟩ }⟩

/-! ## Runs to the end of a command -/

/-- With nothing outstanding no input is an answer. -/
theorem State.answeredNext_of_none (h : s.blk.outstanding = none) : s.answeredNext = false := by
  unfold State.answeredNext
  rw [h]
  split
  · exact nomatch ‹none = some _›
  · rfl

/-- The answered transactions of a run, from its first step on. -/
theorem answeredIn_succ (h : step s = .next t) (n : Nat) :
    answeredIn (n + 1) s = (if s.answeredNext then 1 else 0) + answeredIn n t := by
  simp only [answeredIn, h]

/-- The inputs bring a command to its end within the transactions it has left, if enough of them answer whatever the block
waits on. -/
theorem State.Inv.runs_to_end (hi : s.Inv) {xs is : List Input} (hx : ∀ x ∈ xs, x.isReset = false)
    (hle : s.blk.transactionsLeft s.cfg ≤ xs.countP Input.surelyAnswers) (hin : s.inputs = xs ++ is) :
    ∃ n t, n ≤ xs.length ∧ runSteps n s = .next t ∧ answeredIn n s ≤ s.blk.transactionsLeft s.cfg ∧
      t.blk.phase.running = false ∧ t.host = s.host ∧ t.inputs = xs.drop n ++ is := by
  induction xs generalizing s with
  | nil =>
    refine ⟨0, s, le_rfl, rfl, Nat.zero_le _, Bool.eq_false_iff.2 fun hr => ?_, rfl, hin⟩
    exact absurd hle (Nat.not_le.2 (hi.block.transactionsLeft_pos hr))
  | cons x xs ih =>
    cases hr : s.blk.phase.running with
    | false => exact ⟨0, s, Nat.zero_le _, rfl, Nat.zero_le _, hr, rfl, hin⟩
    | true =>
      obtain ⟨hx, hxs⟩ := List.forall_mem_cons.1 hx
      obtain ⟨t, hs⟩ := hi.stepsTo_of_running hr hx hin
      have hcount : (if s.answeredNext then 1 else 0) + t.blk.transactionsLeft s.cfg ≤ s.blk.transactionsLeft s.cfg ∧
          t.blk.transactionsLeft s.cfg ≤ xs.countP Input.surelyAnswers := by
        rw [List.countP_cons] at hle
        obtain ⟨ha, hlt⟩ | ⟨ha, hsure, hblk⟩ := hs.progress
        · simp only [ha, if_true]
          split at hle <;> omega
        · simp only [ha, hblk, hsure, Bool.false_eq_true, if_false] at hle ⊢
          omega
      obtain ⟨n, u, hn, hu, hanswered, hend, hhost, hinputs⟩ := ih hs.inv hxs (hs.cfg ▸ hcount.2) hs.inputs
      refine ⟨n + 1, u, Nat.succ_le_succ hn, runSteps_succ hs.step hu, ?_, hend, hhost.trans hs.host, hinputs⟩
      rw [answeredIn_succ hs.step]
      rw [hs.cfg] at hanswered
      omega

/-- What an acceptance leaves of the inputs to come: all of them, but for a `quiet` that comes first. -/
theorem exists_drop_afterQuiet {xs : List Input} (is : List Input) (h : xs ≠ []) :
    ∃ k ≤ 1, afterQuiet (xs ++ is) = xs.drop k ++ is ∧
      (xs.drop k).countP Input.surelyAnswers = xs.countP Input.surelyAnswers := by
  cases xs with
  | nil => exact absurd rfl h
  | cons x xs =>
    cases x with
    | quiet => exact ⟨1, le_rfl, rfl, rfl⟩
    | answer _ | reset _ => exact ⟨0, Nat.zero_le _, rfl, rfl⟩

theorem transactionBound_pos (cfg : Cfg) (i : Instr) : 0 < transactionBound cfg i := by
  cases i with
  | setup _ _ _ | verify _ _ _ => exact Nat.succ_pos _

/-- Settles O57: the ACCEPT step leaves the command at most its number of transactions, and every answer takes one away. -/
theorem everyCommandEnds : Obligations.EveryCommandEnds := by
  intro s f fs i xs is hi h hf hx hle hin
  have hne : xs ≠ [] := by
    rintro rfl
    exact absurd hle (Nat.not_le.2 (transactionBound_pos _ _))
  obtain ⟨k, hk, hdrop, hcount⟩ := exists_drop_afterQuiet is hne
  obtain ⟨b, hs, -⟩ := h.step_accepts hf
  have hleft : b.transactionsLeft s.cfg ≤ transactionBound s.cfg i :=
    exec_transactionsLeft_le (s := s.passQuiet.setHost fs) h.idle ((h.step_exec hf).symm.trans hs)
  have hquiet : s.answeredNext = false := State.answeredNext_of_none (hi.block.waitsIn h.idle)
  obtain ⟨n, t, hn, ht, hanswered, hend, hhost, hinputs⟩ := (everyStepKeepsInv _ _ hi hs).runs_to_end
    (fun x hmem => hx x (List.mem_of_mem_drop hmem)) (hleft.trans (hcount ▸ hle)) ((congrArg afterQuiet hin).trans hdrop)
  rw [List.length_drop] at hn
  have hpos := List.length_pos_of_ne_nil hne
  refine ⟨n + 1, k + n, t, by omega, runSteps_succ hs ht, ?_, hend, hhost, by omega, ?_⟩
  · rw [answeredIn_succ hs, hquiet]
    simpa using hanswered.trans hleft
  · rw [hinputs, List.drop_drop]

end Sys2Proof.Machine
end

section
/-! PROOFS. The refusal mark, the store's canonical form over a step, and the contract of the store's WRITE. -/

namespace Sys2Proof.Machine

variable {c : Collaborators} {cfg : Cfg} {s t : State}

/-! ## The refusal mark -/

/-- The host presents a reserved frame (R105). -/
def State.PresentsReserved (s : State) : Prop := ∃ f fs e, s.host = f :: fs ∧ decode f = .error e

/-- What a step makes of the mark: it stays, or a refusal is marked, for which the configuration or the host's frame is the
reason (R308). -/
def State.MarkMoves (s t : State) : Prop :=
  t.refusal = s.refusal ∨ (¬ s.cfg.legal ∨ s.PresentsReserved) ∧ ∃ r, t.refusal = some (s.refusal.getD r)

/-- A mark stays (R308). -/
theorem State.MarkMoves.marked_stays (h : s.MarkMoves t) {r : Refusal} (hr : s.refusal = some r) :
    t.refusal = some r := by
  obtain h | ⟨-, r', h⟩ := h
  · exact h.trans hr
  · rw [h, hr, Option.getD_some]

/-- A new mark has its reason (R308). -/
theorem State.MarkMoves.reason (h : s.MarkMoves t) (hs : s.refusal = none) (ht : t.refusal ≠ none) :
    ¬ s.cfg.legal ∨ s.PresentsReserved := by
  obtain h | ⟨hreason, -⟩ := h
  · exact absurd (h.trans hs) ht
  · exact hreason

/-- The mark of the first refusal (R308). -/
theorem State.refuse_unmarked (hs : s.refusal = none) (r : Refusal) : s.refuse r = { s with refusal := some r } := by
  rw [State.refuse, hs, Option.getD_none, State.setRefusal]

/-- No command touches the mark. -/
theorem exec_refusal {i : Instr} (h : exec i s = .next t) : t.refusal = s.refusal := by
  cases i with
  | setup plen pin sec => obtain ⟨-, rfl⟩ | ⟨-, -, rfl⟩ | ⟨-, -, rfl⟩ := execSetup_next h <;> rfl
  | verify plen pin excess => obtain ⟨-, rfl⟩ | ⟨-, -, rfl⟩ | ⟨-, -, rfl⟩ := execVerify_next h <;> rfl

/-- An ACCEPT step marks a reserved frame only (R105). -/
theorem acceptNext_markMoves (h : acceptNext s = .next t) : s.MarkMoves t := by
  obtain rfl | ⟨f, fs, i, -, -, h⟩ | ⟨f, fs, e, hf, he, rfl⟩ := acceptNext_next h
  · exact .inl rfl
  · exact .inl (exec_refusal (s := s.setHost fs) h)
  · exact .inr ⟨.inr ⟨f, fs, e, hf, he⟩, _, rfl⟩

theorem systemStep_markMoves (h : systemStep c s = .next t) : s.MarkMoves t := by
  obtain ⟨hl, rfl⟩ | ⟨-, ⟨left, is, -, rfl⟩ | ⟨-, h⟩ | ⟨-, rfl⟩ | ⟨a, is, -, -, h⟩⟩ := systemStep_next h
  · exact .inr ⟨.inl hl, _, rfl⟩
  · exact .inl rfl
  · exact acceptNext_markMoves (s := s.passQuiet) h
  · exact .inl rfl
  · obtain ⟨-, -, -, hr⟩ := answerNext_frame h
    exact .inl hr

/-- The step under an illegal configuration (R6, R31). -/
theorem systemStep_illegal (hl : ¬ s.cfg.legal) : systemStep c s = .next (s.refuse .illegalConfiguration) := if_neg hl

/-- The step in which the host presents a reserved frame: it is dropped and marked (R105). -/
theorem State.Presents.step_reserved {f : Frame} {fs : List Frame} {e : DecodeError} (h : s.Presents f fs)
    (he : decode f = .error e) : step s = .next ((s.passQuiet.setHost fs).refuse (refusalOf e)) := by
  rw [h.step_eq, acceptNext, State.passQuiet_host, h.next]
  simp only [he]

/-- A RESPONSE step goes on, or stops with a fault. -/
theorem answerNext_ne_refused (c : Collaborators) (s : State) (a : Answer) (r : Refusal) :
    answerNext c s a ≠ .refused r := by
  unfold answerNext
  split
  · nofun
  · split
    · nofun
    · nofun
    · split
      · nofun
      · nofun

/-- What goes on is no refusal of the interface. -/
theorem ne_refused_of_next {o : Host.Outcome State Fault Refusal} (h : ∃ t, o = .next t) (r : Refusal) :
    o ≠ .refused r := by
  obtain ⟨t, rfl⟩ := h
  nofun

/-- No step is a refusal of the interface: a refusal is a mark (R308). -/
theorem systemStep_ne_refused (c : Collaborators) (s : State) (r : Refusal) : systemStep c s ≠ .refused r := by
  unfold systemStep
  split
  · split
    · nofun
    · split
      · exact ne_refused_of_next (acceptNext_total s) r
      · exact answerNext_ne_refused c _ _ r
    · exact ne_refused_of_next (acceptOrHold_total _) r
    · exact ne_refused_of_next (acceptOrHold_total s) r
  · nofun

/-- Settles O13: the two steps that refuse, what a step makes of the mark (`systemStep_markMoves`), and that none stops. -/
theorem refusalOnlyMarks : Obligations.RefusalOnlyMarks := by
  refine ⟨fun s f fs e h he => ⟨_, h.step_reserved he, ?_, rfl, rfl, rfl⟩, fun s hs hl => ?_,
    fun s t hs h ht => (systemStep_markMoves h).reason hs ht, fun s t r hs h => (systemStep_markMoves h).marked_stays hs,
    systemStep_ne_refused _⟩
  · rw [State.refuse_unmarked (s := s.passQuiet.setHost fs) h.unrefused]
  · rw [← State.refuse_unmarked hs]
    exact systemStep_illegal hl

/-! ## The store's canonical form -/

/-- Settles O47: whatever a step makes of the store, a request touched it, and every such change keeps the form. -/
theorem storeStaysCanonical : Obligations.StoreStaysCanonical := by
  intro s t hs h
  obtain ⟨-, hm⟩ := systemStep_moves h
  exact hm.touched.wf hs

/-! ## The contract of a WRITE -/

/-- A failed or interrupted WRITE leaves its unit unchanged, or with a content that fits (R76, R351, D10). -/
theorem unit_leaveUnit_same (cfg : Cfg) (m : Memory) (a : Nat) (u : UnitResidue) :
    (leaveUnit cfg m a u).unit a = m.unit a ∨ ((leaveUnit cfg m a u).unit a).fits cfg := by
  cases u with
  | unchanged => exact .inl rfl
  | erased =>
    right
    rw [leaveUnit, Memory.unit_erase_same]
    trivial
  | data b =>
    right
    rw [leaveUnit, Memory.unit_write_same]
    exact List.length_take_le _ _

/-- Settles O28: what `Ok` writes, and the residues that a `Fail` can draw. -/
theorem writeContract : Obligations.WriteContract := by
  intro cfg e a b
  refine ⟨⟨_, rfl, Memory.unit_write_same _ a b, rfl, fun _ h => Memory.unit_write_other _ b h⟩,
    fun left => ⟨_, rfl, unit_leaveUnit_same cfg _ a _, rfl, fun _ h => unit_leaveUnit_other cfg _ _ h⟩, ?_⟩
  rintro u (rfl | hu)
  · exact ⟨⟨.unchanged, .fresh⟩, _, rfl, rfl⟩
  · obtain ⟨r, hr⟩ := exists_leaveUnit e.mem a hu
    exact ⟨⟨r, .fresh⟩, _, rfl, hr⟩

end Sys2Proof.Machine
end
